-- ==== Sys2Proof/Config.lean ====
section
/-! DEFINITION. The parameters of rule R6 (spec/00_scope.md) that more than one file of the model uses. Every one of
them but LATENCY is fixed by the spec; LATENCY is the length of `State.pipe` (spec/30_encoding.md R35). -/

namespace Sys2Proof

/-- `LABEL_CHARS`, the characters in a label (R6). -/
abbrev Config.labelChars : Nat := 5

/-- `N_CONS`, the entries of the consonant ROM (R6, R19). -/
abbrev Config.nCons : Nat := 16

/-- `N_VOW`, the entries of the vowel ROM (R6, R20). -/
abbrev Config.nVow : Nat := 4

/-- `REQ_BITS`, the width of a request word (R6, R36). -/
abbrev Config.reqBits : Nat := 44

/-- The LATENCY of the machine that `State.reset` describes. The spec leaves LATENCY open (R6, R35).
DESIGN CHOICE 0, assumption 2; no statement rests on it. -/
def Config.resetLatency : Nat := 0

end Sys2Proof
end

