-- ==== Sys2Proof/Word.lean ====
section
/-! DEFINITION. The types every rule uses (spec/00_scope.md R7, R8): values, characters, labels, errors, and the words
on the two channels. All quantities are unsigned (R7). -/

namespace Sys2Proof

/-- A value: 16 bits, unsigned (R8). -/
abbrev Value := BitVec 16

/-- A character: 8 bits holding one character code (R8, R24). -/
abbrev CharCode := BitVec 8

/-- An index into the consonant ROM (R19). -/
abbrev ConsIndex := BitVec 4

/-- An index into the vowel ROM (R20). -/
abbrev VowIndex := BitVec 2

/-- The `len` field of a request (R36). -/
abbrev LenField := BitVec 3

/-- A label packed into 40 bits (R42). -/
abbrev Packed := BitVec 40

/-- A request word `REQ[43:0]` (R36). -/
abbrev ReqWord := BitVec 44

/-- A response word `RSP[49:0]` (R39). -/
abbrev RspWord := BitVec 50

/-- A text: a finite sequence of bytes (R61). -/
abbrev Text := List CharCode

/-- Exactly five characters, the leftmost first; positions 0, 2, 4 are the consonant positions and 1, 3 the vowel
positions (R8). Whether it is well formed is `Label.wellFormed`. -/
structure Label where
  c0 : CharCode
  c1 : CharCode
  c2 : CharCode
  c3 : CharCode
  c4 : CharCode
deriving DecidableEq, Repr

/-- The errors of DEC (R8, R77); a character error carries the offending character and nothing else (R80). -/
inductive DecError where
  | invalidLabelLength
  | invalidConsonant (c : CharCode)
  | invalidVowel (c : CharCode)
deriving DecidableEq, Repr

/-- An identifier: its labels, the most significant first (R61). That it has at least one and that each is well formed
is `Identifier.wellFormed`. -/
structure Identifier where
  labels : List Label
deriving DecidableEq, Repr

end Sys2Proof
end

