-- ==== Sys2Proof/Machine/Operands.lean ====
section
/-! DEFINITION. Operand forms: the fields of a 16-bit value (R54), the packing of a label in 40 bits (R42), and the
segment of a text as five characters (R38). -/

namespace Sys2Proof.Machine

/-- Field 0 of a value, bits [15:12], a consonant index (R54). -/
def field0 (v : Value) : ConsIndex := v.extractLsb' 12 4

/-- Field 1 of a value, bits [11:10], a vowel index (R54). -/
def field1 (v : Value) : VowIndex := v.extractLsb' 10 2

/-- Field 2 of a value, bits [9:6], a consonant index (R54). -/
def field2 (v : Value) : ConsIndex := v.extractLsb' 6 4

/-- Field 3 of a value, bits [5:4], a vowel index (R54). -/
def field3 (v : Value) : VowIndex := v.extractLsb' 4 2

/-- Field 4 of a value, bits [3:0], a consonant index (R54). -/
def field4 (v : Value) : ConsIndex := v.extractLsb' 0 4

/-- `pack(L)`: position 0 in the most significant byte (R42). -/
def pack (l : Label) : Packed := (l.c0 ++ l.c1 ++ l.c2 ++ l.c3 ++ l.c4 : BitVec (8 + 8 + 8 + 8 + 8))

/-- `ch[k] = payload[39-8k : 32-8k]` (R42). -/
def unpack (p : Packed) : Label :=
  { c0 := p.extractLsb' 32 8
    c1 := p.extractLsb' 24 8
    c2 := p.extractLsb' 16 8
    c3 := p.extractLsb' 8 8
    c4 := p.extractLsb' 0 8 }

/-- The `len` a caller presents for a segment of `n` characters: its true length, and 7 for a longer one (R38). -/
def segmentLen (n : Nat) : LenField := BitVec.ofNat 3 (min n 7)

/-- The given characters left-justified from slot 0, unused slots 0x00 (R45); no slot holds a sixth (assumption 10). -/
def leftJustify (t : Text) : Label :=
  { c0 := t.getD 0 0x00#8
    c1 := t.getD 1 0x00#8
    c2 := t.getD 2 0x00#8
    c3 := t.getD 3 0x00#8
    c4 := t.getD 4 0x00#8 }

/-- The five bytes of a label in reading order. -/
def labelText (l : Label) : Text := [l.c0, l.c1, l.c2, l.c3, l.c4]

/-- A segment of exactly five characters as a label; none for any other length (R70, R71). -/
def labelOfText? : Text → Option Label
  | [a, b, c, d, e] => some ⟨a, b, c, d, e⟩
  | _ => none

end Sys2Proof.Machine
end

