-- ==== Sys2Proof/Syntax.lean ====
section
/-! DEFINITION. The operations of the block, one constructor for each row of spec/opcode_table.json (R3, R44). -/

namespace Sys2Proof

/-- One request, decoded (R44). The bits an ENC request ignores are no operand (R43, assumption 5). -/
inductive Instr where
  /-- ENC: the value to encode (R37, R55). -/
  | enc (value : Value)
  /-- DEC: how many characters the caller supplies, and the five character slots (R38, R56). -/
  | dec (len : LenField) (ch : Label)
deriving DecidableEq, Repr

end Sys2Proof
end

