-- ==== Sys2Proof/Decode.lean ====
section
/-! DEFINITION. The request decoder, total on request words (R43, R44), and the encoder written from the same layout
(R36 to R38). -/

namespace Sys2Proof

/-- `REQ[43]`, the operation: false is ENC, true is DEC (R36). -/
def reqOp (w : ReqWord) : Bool := w.getLsbD 43

/-- `REQ[42:40]` (R36). -/
def reqLen (w : ReqWord) : LenField := w.extractLsb' 40 3

/-- `REQ[39:0]` (R36). -/
def reqPayload (w : ReqWord) : Packed := w.extractLsb' 0 40

/-- `REQ[15:0]`, the operand of ENC (R37). -/
def reqValue (w : ReqWord) : Value := w.extractLsb' 0 16

/-- Decoding a request word: total, no request is refused (R43, R44). -/
def decode (w : ReqWord) : Instr :=
  if reqOp w then .dec (reqLen w) (Machine.unpack (reqPayload w)) else .enc (reqValue w)

/-- The request word of an instruction; of ENC the canonical one, ignored bits zero (R37, R38). -/
def encode : Instr → ReqWord
  | .enc v => (0#28 ++ v : BitVec (28 + 16))
  | .dec len ch => (1#1 ++ len ++ Machine.pack ch : BitVec (1 + 3 + 40))

/-- Why a number is no request. -/
inductive Rejection where
  /-- The number does not fit the 44 bits of a request word (R36; assumption 11). Raised by `decodeNat`; safe. -/
  | widerThanRequest
deriving DecidableEq, Repr

/-- The request a number stands for, bit 0 its least significant bit; rejected by name where it is not 44 bits. -/
def decodeNat (w : Nat) : Except Rejection Instr :=
  if w < 2 ^ Config.reqBits then .ok (decode (BitVec.ofNat 44 w)) else .error .widerThanRequest

/-- The instruction the decoder reads from the `nbits` bits of `w`, numbered as spec/opcode_table.json numbers them; the
bits above `nbits` are zero. -/
def decodeTableWord (nbits w : Nat) : Option Instr :=
  match decodeNat (w % 2 ^ nbits) with
  | .ok i => some i
  | .error _ => none

end Sys2Proof
end

