-- ==== Sys2Proof/Machine/Alphabet.lean ====
section
/-! DEFINITION. The Alphabet Tables (spec/40_alphabet_tables.md): the two ROMs and their inverse lookups. The ROMs are
constants, not state (spec/10_state.md R19, R20). -/

namespace Sys2Proof.Machine

/-- Contents of the consonant ROM, index 0 first: `b d f g h j k l m n p r s t v z` (R46). -/
def consRom : Vector CharCode Config.nCons :=
  #v[0x62#8, 0x64#8, 0x66#8, 0x67#8, 0x68#8, 0x6A#8, 0x6B#8, 0x6C#8,
     0x6D#8, 0x6E#8, 0x70#8, 0x72#8, 0x73#8, 0x74#8, 0x76#8, 0x7A#8]

/-- Contents of the vowel ROM, index 0 first: `a i o u` (R47). -/
def vowRom : Vector CharCode Config.nVow :=
  #v[0x61#8, 0x69#8, 0x6F#8, 0x75#8]

/-- `CONS[i]` (R46). -/
def cons (i : ConsIndex) : CharCode := consRom.get i.toFin

/-- `VOW[i]` (R47). -/
def vow (i : VowIndex) : CharCode := vowRom.get i.toFin

/-- The character is an entry of the consonant ROM. -/
def isConsonant (c : CharCode) : Bool := consRom.toList.contains c

/-- The character is an entry of the vowel ROM. -/
def isVowel (c : CharCode) : Bool := vowRom.toList.contains c

/-- `consonant_value(c)`: the index of `c` in the consonant ROM, or the error that carries `c` (R49). Whole bytes are
compared: no case folding (R53). -/
def consonantValue (c : CharCode) : Except DecError ConsIndex :=
  match consRom.toList.findIdx? (· == c) with
  | some i => .ok (BitVec.ofNat 4 i)
  | none => .error (.invalidConsonant c)

/-- `vowel_value(c)`: the index of `c` in the vowel ROM, or the error that carries `c` (R50). -/
def vowelValue (c : CharCode) : Except DecError VowIndex :=
  match vowRom.toList.findIdx? (· == c) with
  | some i => .ok (BitVec.ofNat 2 i)
  | none => .error (.invalidVowel c)

end Sys2Proof.Machine
end

