-- ==== Sys2Proof/Machine/Flags.lean ====
section
/-! DEFINITION. The block has no flag (spec/10_state.md R17): the outcome of an operation stands in the response word
alone. This file holds that word: status codes (R40), its fields (R39), and the word of each outcome (R41). -/

namespace Sys2Proof.Machine

/-- The outcome codes of R40, each under its name. -/
inductive Status where
  | ok
  | invalidLabelLength
  | invalidConsonant
  | invalidVowel
deriving DecidableEq, Repr

/-- `RSP[49:48]` of a status (R40). -/
def statusCode : Status → BitVec 2
  | .ok => 0
  | .invalidLabelLength => 1
  | .invalidConsonant => 2
  | .invalidVowel => 3

/-- The status a code names; all four codes are used (R40). -/
def statusOfCode (b : BitVec 2) : Status :=
  if b = 0 then .ok else if b = 1 then .invalidLabelLength else if b = 2 then .invalidConsonant else .invalidVowel

/-- The status of an error (R77). -/
def errorStatus : DecError → Status
  | .invalidLabelLength => .invalidLabelLength
  | .invalidConsonant _ => .invalidConsonant
  | .invalidVowel _ => .invalidVowel

/-- `err_char` of an error: the offending character, 0x00 where there is none (R39, R77). -/
def errorChar : DecError → CharCode
  | .invalidLabelLength => 0x00
  | .invalidConsonant c => c
  | .invalidVowel c => c

/-- A response word from its three fields (R39). -/
def rspWord (status : Status) (errChar : CharCode) (result : Packed) : RspWord :=
  (statusCode status ++ errChar ++ result : BitVec (2 + 8 + 40))

/-- The field `status` of a response word (R39). -/
def rspStatus (r : RspWord) : Status := statusOfCode (r.extractLsb' 48 2)

/-- The field `err_char` of a response word (R39). -/
def rspErrChar (r : RspWord) : CharCode := r.extractLsb' 40 8

/-- The field `result` of a response word (R39). -/
def rspResult (r : RspWord) : Packed := r.extractLsb' 0 40

/-- The response word of an ENC with label `l` (R41). -/
def labelRsp (l : Label) : RspWord := rspWord .ok 0x00 (pack l)

/-- The response word of a DEC that succeeds with `v` (R41). -/
def valueRsp (v : Value) : RspWord := rspWord .ok 0x00 (v.setWidth 40)

/-- The response word of a DEC that ends in an error: no part of a value (R41, R83). -/
def errorRsp (e : DecError) : RspWord := rspWord (errorStatus e) (errorChar e) 0

/-- The response word of either outcome of a DEC (R41). -/
def resultRsp : Except DecError Value → RspWord
  | .ok v => valueRsp v
  | .error e => errorRsp e

/-- The outcome a response word to a DEC stands for: `status` is read first (R41, R98). -/
def readValue (r : RspWord) : Except DecError Value :=
  match rspStatus r with
  | .ok => .ok ((rspResult r).setWidth 16)
  | .invalidLabelLength => .error .invalidLabelLength
  | .invalidConsonant => .error (.invalidConsonant (rspErrChar r))
  | .invalidVowel => .error (.invalidVowel (rspErrChar r))

/-- The label in a response word to an ENC, which always succeeds (R41, R55). -/
def readLabel (r : RspWord) : Label := unpack (rspResult r)

end Sys2Proof.Machine
end

