-- ==== Sys2Proof/Machine/State.lean ====
section
/-! DEFINITION. The state of the block: its input ports in the cycles to come, the transactions in flight, its output
ports, and the model's own history of transactions. The spec gives the block no register, program counter, flag,
control register or memory (spec/10_state.md R13 to R18), so there is no field for one. -/

namespace Sys2Proof.Machine

/-- The input ports in one cycle of `clk` (R35). -/
structure PortIn where
  /-- Synchronous reset, active high (R91). -/
  rst : Bool
  /-- A request word is presented this cycle. -/
  reqValid : Bool
  /-- The request word; ignored when `reqValid` is false. -/
  req : ReqWord
deriving DecidableEq, Repr

/-- A cycle in which the host presents nothing. -/
def PortIn.idle : PortIn := { rst := false, reqValid := false, req := 0#44 }

/-- A cycle in which the host presents the request word `w`. -/
def PortIn.request (w : ReqWord) : PortIn := { rst := false, reqValid := true, req := w }

/-- Everything the spec gives the machine (INVENTORY.md, State). -/
structure State where
  /-- What the host presents in the cycles to come, the next cycle first (R34, R35; assumptions 1, 3). -/
  inputs : List PortIn
  /-- The transactions in flight, the oldest first: entry `k` is due in `k` cycles' time, `none` where none is due.
  The LENGTH is LATENCY (R6, R21, R35; assumption 2). -/
  pipe : List (Option RspWord)
  /-- The output `rsp_valid` in the cycle last taken (R35). -/
  rspValid : Bool
  /-- The output `rsp` in the cycle last taken; 0 where `rspValid` is false (R35). -/
  rsp : RspWord
  /-- The request words accepted since reset, the oldest first: the model's bookkeeping (R13; assumption 4). -/
  accepted : List ReqWord
  /-- The response words presented since reset, the oldest first: the model's bookkeeping (R13; assumption 4). -/
  delivered : List RspWord
deriving DecidableEq, Repr

/-- LATENCY, the cycles from a request to its response (R35). -/
def State.latency (s : State) : Nat := s.pipe.length

/-- The machine of a given LATENCY right after reset: no transaction in flight, `rsp_valid` 0, `rsp` 50'h0 (R22, R92,
R93), nothing presented. -/
def State.resetWith (latency : Nat) : State :=
  { inputs := []
    pipe := List.replicate latency none
    rspValid := false
    rsp := 0
    accepted := []
    delivered := [] }

/-- The machine right after reset, with the LATENCY of `Config.resetLatency` (assumption 2). -/
def State.reset : State := State.resetWith Config.resetLatency

/-- The reasons for a fault: there is none. "There is no behaviour in this spec that a model must treat as fault"
(spec/93_implementation_defined.md section 1); errors of DEC are values of the response word (R77, R83). Assumption 7. -/
inductive Fault where
deriving DecidableEq, Repr

/-- The reasons for a refusal. -/
inductive Refusal where
  /-- An instruction without a meaning. Raised by no arm of `exec`: both instructions have theirs. Safe. -/
  | notModelled (mnemonic : String)
  /-- The host called a composer operation on an empty sequence, an empty identifier or an empty text: the spec states
  no result (R76). Raised by `Sys2Proof.Composer`, never by a step of the block. Safe. -/
  | emptyInput
deriving DecidableEq, Repr

end Sys2Proof.Machine
end

