-- ==== Sys2Proof/Machine/Ops.lean ====
section
/-! DEFINITION. The named operations the meanings and the step are written with: the accumulator of DEC (R56, R57), the
clock edge that moves the transactions in flight (R35), acceptance of a request, the end of an operation in an error
(R83), and a cycle of reset (R92). -/

namespace Sys2Proof.Machine

/-- One consonant position of DEC: shift the accumulator left by 4 and add the index of the character (R56). -/
def accConsonant (acc : Value) (c : CharCode) : Except DecError Value :=
  match consonantValue c with
  | .ok i => .ok ((acc <<< 4) + i.setWidth 16)
  | .error e => .error e

/-- One vowel position of DEC: shift the accumulator left by 2 and add the index of the character (R56). -/
def accVowel (acc : Value) (c : CharCode) : Except DecError Value :=
  match vowelValue c with
  | .ok i => .ok ((acc <<< 2) + i.setWidth 16)
  | .error e => .error e

/-- The transaction due in this cycle and those that stay in flight, once `entry` has joined the far end of the pipe.
With LATENCY 0 the entry itself is due (R35). -/
def shiftIn (pipe : List (Option RspWord)) (entry : Option RspWord) : Option RspWord × List (Option RspWord) :=
  match pipe with
  | [] => (entry, [])
  | due :: rest => (due, rest ++ [entry])

/-- The output ports show what is due: its word with `rsp_valid` 1, or 50'h0 with `rsp_valid` 0 (R35). -/
def present (due : Option RspWord) (s : State) : State :=
  { s with
    rspValid := due.isSome
    rsp := due.getD 0
    delivered := s.delivered ++ due.toList }

/-- One rising edge of `clk` with `rst` 0, in which `entry` is the response of the request accepted, if any (R35). -/
def clock (entry : Option RspWord) (s : State) : State :=
  present (shiftIn s.pipe entry).1 { s with pipe := (shiftIn s.pipe entry).2 }

/-- A transaction whose response word is `r`: it enters the pipe and the cycle ends (R34, R35). -/
def respond (r : RspWord) (s : State) : State := clock (some r) s

/-- `return`: the operation ends with the result of a label (R9, R41). -/
def returnLabel (l : Label) (s : State) : State := respond (labelRsp l) s

/-- `return`: the operation ends with the result of a value (R9, R41). -/
def returnValue (v : Value) (s : State) : State := respond (valueRsp v) s

/-- `raise`: the operation ends with an error response and has no other effect. There is no trap to take and none to
return from (R9, R83, R84). -/
def raise (e : DecError) (s : State) : State := respond (errorRsp e) s

/-- The input ports in the next cycle; an exhausted list reads as idle cycles (assumption 3). -/
def nextPorts (s : State) : PortIn := s.inputs.headD PortIn.idle

/-- The input ports of one cycle are taken. -/
def takePorts (s : State) : State := { s with inputs := s.inputs.tail }

/-- The request word is accepted: bookkeeping only (R13; assumption 4). -/
def accept (w : ReqWord) (s : State) : State := { s with accepted := s.accepted ++ [w] }

/-- A cycle in which `rst` is 1: every transaction in flight is discarded, `rsp_valid` is 0 and `rsp` 50'h0 (R92);
LATENCY stays. -/
def resetCycle (s : State) : State :=
  { State.resetWith s.latency with inputs := s.inputs }

end Sys2Proof.Machine
end

