-- ==== Sys2Proof/Machine/LabelCodec.lean ====
section
/-! DEFINITION. The Label Codec (spec/41_label_codec.md): what ENC and DEC compute, and their meanings. -/

namespace Sys2Proof.Machine

/-- ENC as a function: each field of the value through its alphabet (R55). -/
def encodeU16 (v : Value) : Label :=
  { c0 := cons (field0 v)
    c1 := vow (field1 v)
    c2 := cons (field2 v)
    c3 := vow (field3 v)
    c4 := cons (field4 v) }

/-- DEC as a function: the length first, then the five positions from the left; the first failure ends it (R56, R81). -/
def decodeLabel (len : LenField) (ch : Label) : Except DecError Value :=
  if len.toNat ≠ Config.labelChars then .error .invalidLabelLength
  else do
    let acc ← accConsonant 0#16 ch.c0
    let acc ← accVowel acc ch.c1
    let acc ← accConsonant acc ch.c2
    let acc ← accVowel acc ch.c3
    accConsonant acc ch.c4

/-- The response word of an ENC request (R41, R55). -/
def encResponse (v : Value) : RspWord := labelRsp (encodeU16 v)

/-- The response word of a DEC request (R41, R56). -/
def decResponse (len : LenField) (ch : Label) : RspWord := resultRsp (decodeLabel len ch)

/-- ENC: return the label; never an error (R55). -/
def execEnc (value : Value) (s : State) : Host.Outcome State Fault Refusal :=
  .next (returnLabel (encodeU16 value) s)

/-- DEC: return the value, or raise the first error (R56). -/
def execDec (len : LenField) (ch : Label) (s : State) : Host.Outcome State Fault Refusal :=
  match decodeLabel len ch with
  | .ok v => .next (returnValue v s)
  | .error e => .next (raise e s)

/-- The response word of an instruction, a function of the instruction alone (R11, R13). -/
def response : Instr → RspWord
  | .enc v => encResponse v
  | .dec len ch => decResponse len ch

/-- A transaction: the response word the block yields for a request word (R34). -/
def transact (w : ReqWord) : RspWord := response (decode w)

end Sys2Proof.Machine
end

