-- ==== Sys2Proof/Machine/Dispatch.lean ====
section
/-! DEFINITION. exec: the instruction's meaning, one arm for each constructor. -/

namespace Sys2Proof.Machine

def exec (i : Instr) (s : State) : Host.Outcome State Fault Refusal :=
  match i with
  | .enc value => Sys2Proof.Machine.execEnc value s
  | .dec len ch => Sys2Proof.Machine.execDec len ch s

end Sys2Proof.Machine
end

