-- ==== Sys2Proof/Machine/Step.lean ====
section
/-! DEFINITION. One step of the machine: one rising edge of `clk` (R35). -/

namespace Sys2Proof.Machine

/-- One cycle: the input ports are taken; with `rst` 1 it is a cycle of reset (R92); else a request presented is decoded
and run (R34, R44); else nothing is accepted and the transactions in flight move on (R35). -/
def step (s : State) : Host.Outcome State Fault Refusal :=
  if (nextPorts s).rst then .next (resetCycle (takePorts s))
  else if (nextPorts s).reqValid then exec (decode (nextPorts s).req) (accept (nextPorts s).req (takePorts s))
  else .next (clock none (takePorts s))

/-- The state in which the host presents the request word `w` in the next cycle (assumption 6); the cycles after it are
as they were. -/
def State.withFetchWord (s : State) (nbits w : Nat) : State :=
  { s with inputs := PortIn.request (BitVec.ofNat 44 (w % 2 ^ nbits)) :: s.inputs.tail }

end Sys2Proof.Machine
end

