-- ==== Sys2Proof/Machine/Assembler.lean ====
section
/-! DEFINITION. The notation for transactions (R45): what each written line assembles to, what stands right of its
arrow, and ASCII text as bytes. -/

namespace Sys2Proof.Machine

/-- "A quoted string stands for its ASCII bytes in reading order" (R45); a byte R45 writes `\xHH` is the Lean character
of that code point. R45 leaves open what a character outside ASCII stands for: DESIGN CHOICE, one byte each, its code
point modulo 256 (assumption 15). -/
def asciiText (t : String) : Text := t.toList.map fun c => BitVec.ofNat 8 c.toNat

/-- The request side of a written line (R45). -/
inductive AsmLine where
  /-- `ENC <value>`. -/
  | enc (v : Value)
  /-- `DEC "<5 characters>"`. -/
  | dec (l : Label)
  /-- `DEC len=<n>, "<characters>"`. -/
  | decLen (n : LenField) (t : Text)
deriving DecidableEq, Repr

/-- The request word a line assembles to (R45): the canonical ENC word; DEC with `len` 5; DEC with the given `len` and
the characters left-justified. -/
def assemble : AsmLine → ReqWord
  | .enc v => encode (.enc v)
  | .dec l => encode (.dec 5#3 l)
  | .decLen n t => encode (.dec n (leftJustify t))

/-- The response side of a written line (R45). -/
inductive AsmAnswer where
  /-- `"<label>"`. -/
  | label (l : Label)
  /-- `<value>`. -/
  | value (v : Value)
  /-- `InvalidLabelLength`, `InvalidConsonant('<c>')` or `InvalidVowel('<c>')`. -/
  | error (e : DecError)
deriving DecidableEq, Repr

/-- What stands right of a line's arrow: the response of its transaction, read (R45). -/
def answer : AsmLine → AsmAnswer
  | .enc v => .label (readLabel (transact (assemble (.enc v))))
  | line =>
    match readValue (transact (assemble line)) with
    | .ok v => .value v
    | .error e => .error e

/-- The DEC request for a segment of any length: its length, capped at 7, and its characters in the slots (R38). -/
def segmentRequest (t : Text) : ReqWord := assemble (.decLen (segmentLen t.length) t)

end Sys2Proof.Machine
end

