-- ==== Sys2Proof/Machine/Composer.lean ====
section
/-! DEFINITION. The Identifier Composer (spec/42_identifier_composer.md): the eight pseudo-operations of the host, each
with the request words it issues to the block and the result it hands its caller. Labels and values reach the host only
through the response words of those requests (`transact`). -/

namespace Sys2Proof.Composer

open Sys2Proof.Machine

/-- What a composer operation hands its caller. -/
inductive HostResult (α : Type) where
  /-- The operation succeeds. -/
  | ok (a : α)
  /-- The operation ends in the first error, with no partial result (R72, R85). -/
  | err (e : DecError)
  /-- The call breaks a precondition; no result is stated (R76). -/
  | refused (r : Refusal)
deriving DecidableEq, Repr

/-- A composer operation carried out: the request words presented to the block, in order, and the result. -/
structure HostRun (α : Type) where
  requests : List ReqWord
  result : HostResult α
deriving DecidableEq, Repr

/-- A successful result put to use; errors and refusals stand. -/
def mapResult {α β : Type} (f : α → β) : HostResult α → HostResult β
  | .ok a => .ok (f a)
  | .err e => .err e
  | .refused r => .refused r

/-- The separator `-` (R64). -/
def sep : CharCode := 0x2D#8

/-- The request word of `ENC v`. -/
def encRequest (v : Value) : ReqWord := assemble (.enc v)

/-- The request word of `DEC(5, L)`. -/
def decRequest (l : Label) : ReqWord := assemble (.dec l)

/-- One ENC transaction. -/
def encLabel (v : Value) : Label := readLabel (transact (encRequest v))

/-- One DEC transaction with `len` 5. -/
def decLabel (l : Label) : Except DecError Value := readValue (transact (decRequest l))

/-- One DEC transaction for a segment of any length: the source's `decode_label` on a sequence of characters (R38). -/
def decSegment (t : Text) : Except DecError Value := readValue (transact (segmentRequest t))

/-- `encode(values)`: one ENC for each value, in order; refused on an empty sequence (R62, R76). -/
def encode (vs : List Value) : HostRun Identifier :=
  if vs.isEmpty then { requests := [], result := .refused .emptyInput }
  else { requests := vs.map encRequest, result := .ok { labels := vs.map encLabel } }

/-- The labels joined by single separators, none at either end (R63). -/
def joinLabels : List Label → Text
  | [] => []
  | [l] => labelText l
  | l :: ls => labelText l ++ sep :: joinLabels ls

/-- `to_text(identifier)`: no transaction; refused on an empty identifier (R63, R76). -/
def toText (x : Identifier) : HostResult Text :=
  if x.labels.isEmpty then .refused .emptyInput else .ok (joinLabels x.labels)

/-- `append(identifier, value)`: one ENC; the new label is last (R65). -/
def append (x : Identifier) (v : Value) : HostRun Identifier :=
  if x.labels.isEmpty then { requests := [], result := .refused .emptyInput }
  else { requests := [encRequest v], result := .ok { labels := x.labels ++ [encLabel v] } }

/-- The two 16-bit words of a 32-bit value, the most significant first (R66). -/
def words32 (v : BitVec 32) : List Value := [v.extractLsb' 16 16, v.extractLsb' 0 16]

/-- The four 16-bit words of a 64-bit value, the most significant first (R67). -/
def words64 (v : BitVec 64) : List Value :=
  [v.extractLsb' 48 16, v.extractLsb' 32 16, v.extractLsb' 16 16, v.extractLsb' 0 16]

/-- The two words of four octets: the first octet is the high byte of the first word (R27, R68). -/
def wordsIpv4 (o0 o1 o2 o3 : BitVec 8) : List Value :=
  [(o0 ++ o1 : BitVec (8 + 8)), (o2 ++ o3 : BitVec (8 + 8))]

/-- `encode_wide(value)` (R66). -/
def encodeWide (v : BitVec 32) : HostRun Identifier := encode (words32 v)

/-- `encode_wide64(value)` (R67). -/
def encodeWide64 (v : BitVec 64) : HostRun Identifier := encode (words64 v)

/-- `encode_ipv4(addr)` (R68). -/
def encodeIpv4 (o0 o1 o2 o3 : BitVec 8) : HostRun Identifier := encode (wordsIpv4 o0 o1 o2 o3)

/-- The text split at every separator; a segment may be empty (R70). -/
def splitAtSep : Text → List Text
  | [] => [[]]
  | c :: cs =>
    if c = sep then [] :: splitAtSep cs
    else
      match splitAtSep cs with
      | [] => [[c]]
      | seg :: segs => (c :: seg) :: segs

/-- The text cut into consecutive groups of five; what is left over is a last, shorter group (R71). -/
def chunks : Text → List Text
  | a :: b :: c :: d :: e :: rest => [a, b, c, d, e] :: chunks rest
  | [] => []
  | short => [short]

/-- Every segment as a label, or `InvalidLabelLength` where one is not five characters (R70). -/
def labelsOf : List Text → Except DecError (List Label)
  | [] => .ok []
  | seg :: segs =>
    match labelOfText? seg, labelsOf segs with
    | some l, .ok ls => .ok (l :: ls)
    | _, _ => .error .invalidLabelLength

/-- Phase 1 in separator mode (R70). -/
def segmentsSep (t : Text) : Except DecError (List Label) := labelsOf (splitAtSep t)

/-- Phase 1 in chunk mode: the length is a multiple of 5, else `InvalidLabelLength` (R71). -/
def segmentsChunk (t : Text) : Except DecError (List Label) :=
  if t.length % Config.labelChars ≠ 0 then .error .invalidLabelLength else labelsOf (chunks t)

/-- Phase 1 of `parse`: separator mode if the text holds a separator, else chunk mode (R69, R72). -/
def segments (t : Text) : Except DecError (List Label) :=
  if t.contains sep then segmentsSep t else segmentsChunk t

/-- DEC of each label in order; the first failure ends it and the later labels are not presented (R72, R73). -/
def decodeAll : List Label → HostRun (List Value)
  | [] => { requests := [], result := .ok [] }
  | l :: ls =>
    match decLabel l with
    | .ok v =>
      { requests := decRequest l :: (decodeAll ls).requests
        result := mapResult (v :: ·) (decodeAll ls).result }
    | .error e => { requests := [decRequest l], result := .err e }

/-- `parse(text)`: phase 1 over the whole text, then phase 2 label by label; refused on empty text (R72, R76). The host
checks lengths itself, without a transaction (assumption 9). -/
def parse (t : Text) : HostRun Identifier :=
  if t.isEmpty then { requests := [], result := .refused .emptyInput }
  else
    match segments t with
    | .error e => { requests := [], result := .err e }
    | .ok ls =>
      { requests := (decodeAll ls).requests
        result := mapResult (fun _ => { labels := ls }) (decodeAll ls).result }

/-- The first error in a list of outcomes, in order; the values where there is none (R95). -/
def firstError : List (Except DecError Value) → HostResult (List Value)
  | [] => .ok []
  | .ok v :: rest => mapResult (v :: ·) (firstError rest)
  | .error e :: _ => .err e

/-- `parse` by a host that issues a DEC for every segment before it looks at any response (R95). -/
def parseAhead (t : Text) : HostRun Identifier :=
  if t.isEmpty then { requests := [], result := .refused .emptyInput }
  else
    match segments t with
    | .error e => { requests := [], result := .err e }
    | .ok ls =>
      { requests := ls.map decRequest
        result := mapResult (fun _ => { labels := ls }) (firstError (ls.map decLabel)) }

/-- `to_values(identifier)`: DEC of each label in order (R73); refused on an empty identifier (assumption 8). -/
def toValues (x : Identifier) : HostRun (List Value) :=
  if x.labels.isEmpty then { requests := [], result := .refused .emptyInput } else decodeAll x.labels

end Sys2Proof.Composer
end

