-- ==== Sys2Proof/WellFormed.lean ====
section
/-! DEFINITION. What is well formed: instructions (all of them), labels (R8) and identifiers (R61). -/

namespace Sys2Proof

/-- Every request is legal: there is no illegal or reserved operand or opcode (R43). -/
def Instr.wellFormed : Instr → Bool
  | .enc _ => true
  | .dec _ _ => true

/-- "every character at an even position (0,2,4) must belong to Consonants; every character at an odd position (1,3)
must belong to Vowels" (R8). -/
def Label.wellFormed (l : Label) : Bool :=
  Machine.isConsonant l.c0 && Machine.isVowel l.c1 && Machine.isConsonant l.c2 && Machine.isVowel l.c3 &&
    Machine.isConsonant l.c4

/-- One or more labels, each well formed (R61). -/
def Identifier.wellFormed (x : Identifier) : Bool :=
  !x.labels.isEmpty && x.labels.all Label.wellFormed

end Sys2Proof
end

