-- ==== Sys2Proof/Safety.lean ====
section
/-! DEFINITION. The terms claims about the machine use: runs, the responses in flight, and the invariant of the channel
(spec/20_memory.md R30, spec/30_encoding.md R35). -/

namespace Sys2Proof.Machine

/-- `k` cycles of the machine, stopping at the first fault or refusal. -/
def run (k : Nat) (s : State) : Host.Outcome State Fault Refusal := Host.Core.run Sys2Proof.core k s

/-- The response words in flight, the oldest first. -/
def inFlight (s : State) : List RspWord := s.pipe.filterMap id

/-- The request words presented in a list of cycles without reset (R35). -/
def requestsOf (ports : List PortIn) : List ReqWord := (ports.filter (·.reqValid)).map (·.req)

/-- Since reset, the responses presented and then those in flight are the responses to the requests accepted: one for
each, in order, none dropped, duplicated or reordered (R30). -/
def InOrder (s : State) : Prop := s.delivered ++ inFlight s = s.accepted.map transact

/-- `rsp` is 50'h0 where `rsp_valid` is 0, and else the response last presented (R35). -/
def OutputsAgree (s : State) : Prop :=
  (s.rspValid = false → s.rsp = 0) ∧ (s.rspValid = true → s.delivered.getLast? = some s.rsp)

/-- The invariant of the channel. -/
def ChannelInv (s : State) : Prop := InOrder s ∧ OutputsAgree s

end Sys2Proof.Machine
end

