-- ==== Sys2Proof/Certificates/Slice0/Obligations.lean ====
section
/-! DEFINITION. What is to be proved of the model, from the numbered rules of spec/. -/

open Sys2Proof Sys2Proof.Machine

/-! ### Alphabet Tables -/

/-- R48: the entries of each table are pairwise distinct, the tables share no character, and no character is accepted at
both kinds of position. -/
def Obligations.TablesAreInjectiveAndDisjoint : Prop :=
  (∀ i j, cons i = cons j → i = j) ∧ (∀ i j, vow i = vow j → i = j) ∧ (∀ i j, cons i ≠ vow j) ∧
    ∀ c i j, ¬(consonantValue c = .ok i ∧ vowelValue c = .ok j)

/-- R52: the lookups invert the tables, both ways. -/
def Obligations.LookupsInvertTheTables : Prop :=
  (∀ i, consonantValue (cons i) = .ok i) ∧ (∀ i, vowelValue (vow i) = .ok i) ∧
    (∀ c i, consonantValue c = .ok i → cons i = c) ∧ (∀ c i, vowelValue c = .ok i → vow i = c)

/-- R49, R50: each lookup returns the index of the character where the table holds it, else the error that carries it. -/
def Obligations.LookupsReturnIndexOrCarryCharacter : Prop :=
  (∀ c i, cons i = c → consonantValue c = .ok i) ∧
    (∀ c, (∀ i, cons i ≠ c) → consonantValue c = .error (.invalidConsonant c)) ∧
    (∀ c i, vow i = c → vowelValue c = .ok i) ∧
    (∀ c, (∀ i, vow i ≠ c) → vowelValue c = .error (.invalidVowel c))

/-- R51: the classification of all 256 bytes: sixteen consonants, four vowels, and 236 bytes in neither alphabet. -/
def Obligations.EveryByteIsClassified : Prop :=
  (∀ c : CharCode, consonantValue c = match c.toNat with
    | 0x62 => .ok 0 | 0x64 => .ok 1 | 0x66 => .ok 2 | 0x67 => .ok 3 | 0x68 => .ok 4 | 0x6A => .ok 5
    | 0x6B => .ok 6 | 0x6C => .ok 7 | 0x6D => .ok 8 | 0x6E => .ok 9 | 0x70 => .ok 10 | 0x72 => .ok 11
    | 0x73 => .ok 12 | 0x74 => .ok 13 | 0x76 => .ok 14 | 0x7A => .ok 15
    | _ => .error (.invalidConsonant c)) ∧
  (∀ c : CharCode, vowelValue c = match c.toNat with
    | 0x61 => .ok 0 | 0x69 => .ok 1 | 0x6F => .ok 2 | 0x75 => .ok 3
    | _ => .error (.invalidVowel c)) ∧
  ((List.range 256).filter fun n => !isConsonant (BitVec.ofNat 8 n) && !isVowel (BitVec.ofNat 8 n)).length = 236

/-! ### Operand forms -/

/-- R54: the five fields are the shifts and masks of the table, and with their weights they add up to the value. -/
def Obligations.FieldsPartitionTheValue : Prop :=
  ∀ v : Value,
    (field0 v).setWidth 16 = (v >>> 12) &&& 0xF#16 ∧ (field1 v).setWidth 16 = (v >>> 10) &&& 0x3#16 ∧
    (field2 v).setWidth 16 = (v >>> 6) &&& 0xF#16 ∧ (field3 v).setWidth 16 = (v >>> 4) &&& 0x3#16 ∧
    (field4 v).setWidth 16 = v &&& 0xF#16 ∧
    v.toNat = (field0 v).toNat * 4096 + (field1 v).toNat * 1024 + (field2 v).toNat * 64 + (field3 v).toNat * 16 +
      (field4 v).toNat

/-- R42: where each character of a label stands in the 40 bits, and that packing and unpacking are inverse. -/
def Obligations.PackingPlacesEachCharacter : Prop :=
  (∀ l : Label, pack l = l.c0 ++ l.c1 ++ l.c2 ++ l.c3 ++ l.c4 ∧
    (pack l).toNat = l.c0.toNat * 2 ^ 32 + l.c1.toNat * 2 ^ 24 + l.c2.toNat * 2 ^ 16 + l.c3.toNat * 2 ^ 8 +
      l.c4.toNat ∧
    unpack (pack l) = l) ∧
  (∀ p : Packed, (unpack p).c0.toNat = p.toNat / 2 ^ 32 ∧ (unpack p).c1.toNat = p.toNat / 2 ^ 24 % 256 ∧
    (unpack p).c2.toNat = p.toNat / 2 ^ 16 % 256 ∧ (unpack p).c3.toNat = p.toNat / 2 ^ 8 % 256 ∧
    (unpack p).c4.toNat = p.toNat % 256 ∧ pack (unpack p) = p)

/-! ### Request words -/

/-- R44: what the decoder reads, bit by bit as numbers, and the opcode table's mask and match. -/
def Obligations.DecoderReadsTheFields : Prop :=
  (∀ w : ReqWord, w.toNat / 2 ^ 43 = 0 → decode w = .enc (BitVec.ofNat 16 (w.toNat % 2 ^ 16))) ∧
  (∀ w : ReqWord, w.toNat / 2 ^ 43 = 1 → decode w = .dec (BitVec.ofNat 3 (w.toNat / 2 ^ 40 % 8))
    ⟨BitVec.ofNat 8 (w.toNat / 2 ^ 32 % 256), BitVec.ofNat 8 (w.toNat / 2 ^ 24 % 256),
     BitVec.ofNat 8 (w.toNat / 2 ^ 16 % 256), BitVec.ofNat 8 (w.toNat / 2 ^ 8 % 256),
     BitVec.ofNat 8 (w.toNat % 256)⟩) ∧
  (∀ w : ReqWord, (w &&& 0x80000000000#44 = 0x00000000000#44 ↔ ∃ v, decode w = .enc v) ∧
    (w &&& 0x80000000000#44 = 0x80000000000#44 ↔ ∃ len ch, decode w = .dec len ch))

/-- Decode and encode agree, every operand at every value (R36 to R38, R42, R44). That the slots of a DEC whose `len` is
not 5 are operands too, and so come back, is the model's own (assumption 5, DEDUCED). -/
def Obligations.DecodeOfEncodeIsTheInstruction : Prop :=
  ∀ i : Instr, decode (encode i) = i

/-- Encoding what was decoded gives a DEC word back, whatever its `len` (R36, R38, R42, R44), and an ENC word with the bits
it ignores cleared (R37, R43). That the slots of a DEC whose `len` is not 5, which R43 calls ignored, survive decoding is
the model's own (assumption 5, DEDUCED). -/
def Obligations.EncodeOfDecodeClearsIgnoredBits : Prop :=
  ∀ w : ReqWord, (reqOp w = true → encode (decode w) = w) ∧ (reqOp w = false → encode (decode w) = w &&& 0xFFFF#44)

/-- Words written out from the layouts of R37 and R38 (spec/95_test_vectors.md 2.2, 2.3) decode to what they stand for:
a sanity statement. -/
def Obligations.WrittenWordsDecode : Prop :=
  decode 0b00000000000000000000000000000111111100000000#44 = .enc 0x7F00#16 ∧
  decode 0x5ABCDEF7F00#44 = .enc 0x7F00#16 ∧
  decode 0b11010110110001110101011100110110000101100010#44 =
    .dec 5#3 ⟨0x6C#8, 0x75#8, 0x73#8, 0x61#8, 0x62#8⟩ ∧
  decode 0xB5858580000#44 = .dec 3#3 ⟨0x58#8, 0x58#8, 0x58#8, 0x00#8, 0x00#8⟩

/-- A number that fits the request word is decoded as that word; a wider one is no request (assumption 11, the model's
own). -/
def Obligations.TableWordsGoThroughTheDecoder : Prop :=
  ∀ nbits w, w < 2 ^ nbits →
    (w < 2 ^ 44 → decodeTableWord nbits w = some (decode (BitVec.ofNat 44 w))) ∧
    (2 ^ 44 ≤ w → decodeTableWord nbits w = none)

/-- R43: every request word runs; words that differ only in ignored bits have the same response, whatever the `len` that
is not 5. -/
def Obligations.EveryRequestWordIsLegal : Prop :=
  (∀ w s, ∃ t, exec (decode w) s = .next t) ∧
  (∀ w₁ w₂ : ReqWord, reqOp w₁ = false → reqOp w₂ = false → w₁.setWidth 16 = w₂.setWidth 16 →
    transact w₁ = transact w₂) ∧
  (∀ w₁ w₂ : ReqWord, reqOp w₁ = true → reqOp w₂ = true → reqLen w₁ ≠ 5#3 → reqLen w₁ = reqLen w₂ →
    transact w₁ = transact w₂) ∧
  (∀ w : ReqWord, reqOp w = true → reqLen w ≠ 5#3 → rspStatus (transact w) = .invalidLabelLength)

/-- R45: the numbers the written lines assemble to. -/
def Obligations.WrittenLinesAssemble : Prop :=
  (∀ v, (assemble (.enc v)).toNat = v.toNat) ∧
  (∀ l, (assemble (.dec l)).toNat = 0xD * 2 ^ 40 + (pack l).toNat) ∧
  (∀ n l, (assemble (.decLen n (labelText l))).toNat = (8 + n.toNat) * 2 ^ 40 + (pack l).toNat) ∧
  (∀ n a b c, (assemble (.decLen n [a, b, c])).toNat =
    (8 + n.toNat) * 2 ^ 40 + a.toNat * 2 ^ 32 + b.toNat * 2 ^ 24 + c.toNat * 2 ^ 16)

/-! ### Response words -/

/-- R41: the response word of each outcome, exhaustively. -/
def Obligations.ResponseWordOfEachOutcome : Prop :=
  (∀ v s, exec (.enc v) s = .next (respond (BitVec.ofNat 50 (pack (encodeU16 v)).toNat) s)) ∧
  (∀ len ch v s, decodeLabel len ch = .ok v → exec (.dec len ch) s = .next (respond (BitVec.ofNat 50 v.toNat) s)) ∧
  (∀ len ch s, decodeLabel len ch = .error .invalidLabelLength →
    exec (.dec len ch) s = .next (respond 0x1000000000000#50 s)) ∧
  (∀ len ch c s, decodeLabel len ch = .error (.invalidConsonant c) →
    exec (.dec len ch) s = .next (respond (2#2 ++ c ++ 0#40) s)) ∧
  (∀ len ch c s, decodeLabel len ch = .error (.invalidVowel c) →
    exec (.dec len ch) s = .next (respond (3#2 ++ c ++ 0#40) s))

/-- R40: the four codes, all used, and that ENC always answers OK. -/
def Obligations.StatusCodesAreAllUsed : Prop :=
  (statusCode .ok = 0 ∧ statusCode .invalidLabelLength = 1 ∧ statusCode .invalidConsonant = 2 ∧
    statusCode .invalidVowel = 3) ∧
  (∀ st, statusOfCode (statusCode st) = st) ∧
  (∀ v, rspStatus (transact (encode (.enc v))) = .ok) ∧
  (∀ b : BitVec 2, ∃ w : ReqWord, (transact w).extractLsb' 48 2 = b)

/-- R98, R41: read with `status` first, a response word gives back the outcome, though an error and the value 0 have the
same `result`. -/
def Obligations.ReadingStatusFirstRecoversTheOutcome : Prop :=
  (∀ r, readValue (resultRsp r) = r) ∧ (∀ l, readLabel (labelRsp l) = l) ∧
    ∀ e, rspResult (errorRsp e) = rspResult (valueRsp 0) ∧ errorRsp e ≠ valueRsp 0

/-! ### ENC -/

/-- R55: ENC answers, in every state, the five characters of the fields under status 0 and `err_char` 0x00; the ignored
bits of its request change nothing; its label is well formed and different values have different labels; the two ends
of the range and the worked example. -/
def Obligations.EncAnswersTheCharactersOfTheFields : Prop :=
  (∀ (v : Value) (s : State), exec (.enc v) s = .next (respond
    (0#2 ++ 0#8 ++ cons (v.extractLsb' 12 4) ++ vow (v.extractLsb' 10 2) ++ cons (v.extractLsb' 6 4) ++
      vow (v.extractLsb' 4 2) ++ cons (v.extractLsb' 0 4)) s)) ∧
  (∀ w : ReqWord, reqOp w = false → decode w = .enc (w.setWidth 16)) ∧
  (∀ v, (encodeU16 v).wellFormed = true) ∧ (∀ v₁ v₂, encodeU16 v₁ = encodeU16 v₂ → v₁ = v₂) ∧
  labelText (encodeU16 0x0000) = [0x62, 0x61, 0x62, 0x61, 0x62] ∧
  labelText (encodeU16 0xFFFF) = [0x7A, 0x75, 0x7A, 0x75, 0x7A] ∧
  transact 0x00000007F00#44 = 0x0006C75736162#50

/-! ### DEC -/

/-- R56, R78: DEC answers InvalidLabelLength with `len` not 5, whatever the characters are, and never with `len` 5. -/
def Obligations.DecAnswersInvalidLabelLengthExactlyOnOtherLengths : Prop :=
  (∀ (len : LenField) (ch : Label) (s : State), len ≠ 5#3 →
    exec (.dec len ch) s = .next (respond 0x1000000000000#50 s)) ∧
  ∀ ch : Label, rspStatus (decResponse 5#3 ch) ≠ .invalidLabelLength

/-- R56: DEC of five characters of the right alphabets answers the value of their indices. -/
def Obligations.DecOfWellFormedLabelAnswersItsValue : Prop :=
  ∀ (i0 i2 i4 : ConsIndex) (i1 i3 : VowIndex) (s : State),
    exec (.dec 5#3 ⟨cons i0, vow i1, cons i2, vow i3, cons i4⟩) s = .next (respond (BitVec.ofNat 50
      (i0.toNat * 4096 + i1.toNat * 1024 + i2.toNat * 64 + i3.toNat * 16 + i4.toNat)) s)

/-- R79, R81 (2): with `len` 5, DEC answers the error of the leftmost character that is not in the alphabet of its
position, carrying that character. -/
def Obligations.DecReportsTheLeftmostOffendingCharacter : Prop :=
  ∀ (ch : Label) (s : State),
    (isConsonant ch.c0 = false → exec (.dec 5#3 ch) s = .next (respond (2#2 ++ ch.c0 ++ 0#40) s)) ∧
    (isConsonant ch.c0 = true → isVowel ch.c1 = false →
      exec (.dec 5#3 ch) s = .next (respond (3#2 ++ ch.c1 ++ 0#40) s)) ∧
    (isConsonant ch.c0 = true → isVowel ch.c1 = true → isConsonant ch.c2 = false →
      exec (.dec 5#3 ch) s = .next (respond (2#2 ++ ch.c2 ++ 0#40) s)) ∧
    (isConsonant ch.c0 = true → isVowel ch.c1 = true → isConsonant ch.c2 = true → isVowel ch.c3 = false →
      exec (.dec 5#3 ch) s = .next (respond (3#2 ++ ch.c3 ++ 0#40) s)) ∧
    (isConsonant ch.c0 = true → isVowel ch.c1 = true → isConsonant ch.c2 = true → isVowel ch.c3 = true →
      isConsonant ch.c4 = false → exec (.dec 5#3 ch) s = .next (respond (2#2 ++ ch.c4 ++ 0#40) s))

/-- R57: an accumulator step that succeeds neither carries nor loses a bit, and the accumulator ends as the five indices
side by side. -/
def Obligations.AccumulatorNeverCarries : Prop :=
  (∀ acc c a, accConsonant acc c = .ok a → ∃ i, consonantValue c = .ok i ∧
    a = (acc <<< 4) ||| i.setWidth 16 ∧ (acc.toNat < 2 ^ 12 → a.toNat = acc.toNat * 16 + i.toNat)) ∧
  (∀ acc c a, accVowel acc c = .ok a → ∃ i, vowelValue c = .ok i ∧
    a = (acc <<< 2) ||| i.setWidth 16 ∧ (acc.toNat < 2 ^ 14 → a.toNat = acc.toNat * 4 + i.toNat)) ∧
  (∀ i0 i1 i2 i3 i4, decodeLabel 5#3 ⟨cons i0, vow i1, cons i2, vow i3, cons i4⟩ = .ok (i0 ++ i1 ++ i2 ++ i3 ++ i4))

/-- R56: the labels that decode are the well-formed ones, with `len` 5. -/
def Obligations.DecSucceedsExactlyOnWellFormedLabels : Prop :=
  ∀ len ch, (∃ v, decodeLabel len ch = .ok v) ↔ len = 5#3 ∧ ch.wellFormed = true

/-- R58: for every 16-bit value, DEC of its label gives it back; over the block's words too. -/
def Obligations.ValueRoundTrip : Prop :=
  ∀ v : Value, decodeLabel 5#3 (encodeU16 v) = .ok v ∧
    transact (encode (.dec 5#3 (unpack (rspResult (transact (encode (.enc v))))))) = BitVec.ofNat 50 v.toNat

/-- R59: ENC gives back the label DEC accepted; ENC and DEC are inverse bijections between the values and the well-formed
labels; a value has one spelling. -/
def Obligations.LabelRoundTrip : Prop :=
  (∀ l v, decodeLabel 5#3 l = .ok v → encodeU16 v = l) ∧
  (∀ l, l.wellFormed = true ↔ ∃ v, encodeU16 v = l) ∧
  (∀ v₁ v₂, encodeU16 v₁ = encodeU16 v₂ → v₁ = v₂) ∧
  (∀ l₁ l₂ v, decodeLabel 5#3 l₁ = .ok v → decodeLabel 5#3 l₂ = .ok v → l₁ = l₂)

/-! ### The machine -/

/-- R34, R44: a request presented with `rst` 0 is decoded and run in that cycle. -/
def Obligations.StepRunsTheDecodedRequest : Prop :=
  ∀ (s : State) (p : PortIn) (rest : List PortIn), s.inputs = p :: rest → p.rst = false → p.reqValid = true →
    step s = exec (decode p.req) { s with inputs := rest, accepted := s.accepted ++ [p.req] }

/-- The next step of a machine given a request word runs it (assumption 6, the model's own). -/
def Obligations.PlacedWordIsRunNext : Prop :=
  ∀ (s : State) (nbits w : Nat), w < 2 ^ nbits → w < 2 ^ 44 →
    step (s.withFetchWord nbits w) = exec (decode (BitVec.ofNat 44 w))
      { s with inputs := s.inputs.tail, accepted := s.accepted ++ [BitVec.ofNat 44 w] }

/-- Every operation completes in every state and this is all it changes (R13, R34, R35, R83): its response is a function
of the instruction alone; it joins the transactions in flight (with LATENCY 0 it is presented at once), the oldest of
them is presented, and the input ports and the record of accepted requests stay. The two records `accepted` and
`delivered` are the model's own (assumption 4). -/
def Obligations.OperationCompletesAndChangesNothingElse : Prop :=
  (∀ (i : Instr) (s : State), exec i s = .next (respond (transact (encode i)) s)) ∧
  ∀ (r : RspWord) (s : State),
    (respond r s).inputs = s.inputs ∧ (respond r s).accepted = s.accepted ∧
    (respond r s).pipe.length = s.pipe.length ∧
    (s.pipe = [] → (respond r s).rspValid = true ∧ (respond r s).rsp = r ∧
      (respond r s).delivered = s.delivered ++ [r]) ∧
    (∀ due rest, s.pipe = due :: rest → (respond r s).pipe = rest ++ [some r] ∧
      (respond r s).rspValid = due.isSome ∧ (respond r s).rsp = due.getD 0 ∧
      (respond r s).delivered = s.delivered ++ due.toList)

/-- R35: in a cycle with no request, nothing enters the pipe and the outputs show what is due, 50'h0 with `rsp_valid` 0
where nothing is. The two records `accepted` and `delivered` are the model's own (assumption 4). -/
def Obligations.IdleCycleMovesThePipe : Prop :=
  ∀ (s : State) (q : ReqWord) (rest : List PortIn), s.inputs = ⟨false, false, q⟩ :: rest →
    ∃ t, step s = .next t ∧ t.inputs = rest ∧ t.accepted = s.accepted ∧
      (s.pipe = [] → t.pipe = [] ∧ t.rspValid = false ∧ t.rsp = 0#50 ∧ t.delivered = s.delivered) ∧
      (∀ later, s.pipe = none :: later → t.pipe = later ++ [none] ∧ t.rspValid = false ∧ t.rsp = 0#50 ∧
        t.delivered = s.delivered) ∧
      (∀ r later, s.pipe = some r :: later → t.pipe = later ++ [none] ∧ t.rspValid = true ∧ t.rsp = r ∧
        t.delivered = s.delivered ++ [r])

/-- R92: with `rst` 1 the request is ignored, every transaction in flight is discarded, `rsp_valid` is 0 and `rsp` 50'h0:
the machine is that of its LATENCY right after reset, whatever it was (R93). That the two histories are cleared is the
model's own (assumption 4). -/
def Obligations.ResetDiscardsEverythingInFlight : Prop :=
  ∀ (s : State) (p : PortIn) (rest : List PortIn), s.inputs = p :: rest → p.rst = true →
    ∃ t, step s = .next t ∧ t = { State.resetWith s.latency with inputs := rest } ∧
      t.pipe.length = s.pipe.length ∧ (∀ e ∈ t.pipe, e = none) ∧ t.rspValid = false ∧ t.rsp = 0#50

/-- R22, R93: right after reset nothing is in flight and `rsp_valid` is 0, for every LATENCY, and so it stays in any
number of cycles in which no request is presented. For `k` beyond the listed cycles it is about a host that then goes
idle: that is the model's own (assumption 3, DESIGN CHOICE). -/
def Obligations.NoResponseBeforeTheFirstRequest : Prop :=
  ∀ (latency k : Nat) (quiet : List PortIn), (∀ p ∈ quiet, p.reqValid = false) →
    (State.resetWith latency).latency = latency ∧ (∀ e ∈ (State.resetWith latency).pipe, e = none) ∧
    ∃ t, run k { State.resetWith latency with inputs := quiet } = .next t ∧ t.latency = latency ∧
      (∀ e ∈ t.pipe, e = none) ∧ t.rspValid = false ∧ t.rsp = 0#50

/-- R35, R92: `req` is ignored when `req_valid` is 0, and both are ignored when `rst` is 1. -/
def Obligations.IgnoredPortsChangeNothing : Prop :=
  ∀ (s : State) (rest : List PortIn) (v₁ v₂ : Bool) (q₁ q₂ : ReqWord),
    step { s with inputs := ⟨true, v₁, q₁⟩ :: rest } = step { s with inputs := ⟨true, v₂, q₂⟩ :: rest } ∧
    step { s with inputs := ⟨false, false, q₁⟩ :: rest } = step { s with inputs := ⟨false, false, q₂⟩ :: rest }

/-- R43, R82, R83: no step stops, in any state, for any number of cycles; LATENCY never changes (R35). For `k` beyond the
listed cycles it is about a host that then goes idle: that is the model's own (assumption 3, DESIGN CHOICE). -/
def Obligations.TheBlockNeverStops : Prop :=
  ∀ (k : Nat) (s : State), ∃ t, run k s = .next t ∧ t.latency = s.latency ∧ t.inputs = s.inputs.drop k

/-- R30, R35: a step keeps the invariant of the channel. The records it speaks of, cleared by reset, are the model's own
(assumption 4), and a step with no listed cycle left is an idle one (assumption 3, DESIGN CHOICE, the model's own). -/
def Obligations.StepKeepsTheChannelInvariant : Prop :=
  ∀ s t, ChannelInv s → step s = .next t → ChannelInv t

/-- The invariant of the channel holds right after reset, for every LATENCY (R22, R93). The records it speaks of are the
model's own (assumption 4). -/
def Obligations.ChannelInvariantHoldsAfterReset : Prop :=
  ChannelInv State.reset ∧ ∀ latency, ChannelInv (State.resetWith latency)

/-- R35: a request accepted in a cycle is answered LATENCY cycles later, whatever else is presented in between, unless
reset comes. Where fewer than LATENCY cycles are listed after it, the cycles that follow are idle and so free of reset:
that is the model's own (assumption 3, DESIGN CHOICE). -/
def Obligations.ResponseComesLatencyCyclesLater : Prop :=
  ∀ (s : State) (w : ReqWord) (rest : List PortIn), s.inputs = PortIn.request w :: rest →
    (∀ p ∈ rest.take s.latency, p.rst = false) →
    ∃ t, run (s.latency + 1) s = .next t ∧ t.rspValid = true ∧ t.rsp = transact w

/-- R30: whatever the host presents, with resets or without, the n-th response since reset answers the n-th request
accepted since reset. The two records are the model's own (assumption 4), and so is that the cycles beyond the listed
ones are idle (assumption 3, DESIGN CHOICE). -/
def Obligations.NthResponseAnswersNthRequest : Prop :=
  ∀ (latency k : Nat) (ports : List PortIn),
    ∃ t : State, run k { State.resetWith latency with inputs := ports } = .next t ∧
      t.delivered.length ≤ t.accepted.length ∧
      ∀ (n : Nat) (r : RspWord), t.delivered[n]? = some r → ∃ w : ReqWord, t.accepted[n]? = some w ∧ r = transact w

/-- R29, R30: the clocked machine refines the list of atomic transactions. From any state, once the cycles the host has
listed and LATENCY more are over, the responses presented are those that were in flight and then one for each request,
in order, and nothing is in flight. That the LATENCY cycles past the list are idle is the model's own (assumption 3,
DESIGN CHOICE), and so are the two records (assumption 4). -/
def Obligations.EveryRequestIsAnsweredInOrder : Prop :=
  ∀ s : State, (∀ p ∈ s.inputs, p.rst = false) →
    ∃ t, run (s.inputs.length + s.latency) s = .next t ∧
      t.delivered = s.delivered ++ inFlight s ++ (requestsOf s.inputs).map transact ∧
      t.accepted = s.accepted ++ requestsOf s.inputs ∧
      t.pipe = List.replicate s.latency none ∧ t.inputs = []

/-! ### Identifier Composer -/

/-- R62: one ENC for each value, in order, and the labels in the order of the values. -/
def Obligations.EncodeIssuesOneEncForEachValue : Prop :=
  ∀ vs : List Value, vs ≠ [] →
    Composer.encode vs = ⟨vs.map fun v => Sys2Proof.encode (.enc v), .ok ⟨vs.map encodeU16⟩⟩

/-- R76: the empty sequence, the empty identifier and the empty text are refused, and no transaction is issued. -/
def Obligations.EmptyInputIsRefused : Prop :=
  Composer.encode [] = ⟨[], .refused .emptyInput⟩ ∧ Composer.toText ⟨[]⟩ = .refused .emptyInput ∧
    Composer.parse [] = ⟨[], .refused .emptyInput⟩

/-- R63: the text of n labels has 6n - 1 bytes: label k at 6k, a separator between labels and nowhere else; for an
identifier every byte is a letter of the alphabets or the separator. -/
def Obligations.ToTextJoinsLabelsBySingleSeparators : Prop :=
  ∀ x : Identifier, x.labels ≠ [] → ∃ t, Composer.toText x = .ok t ∧ t.length + 1 = 6 * x.labels.length ∧
    (∀ k l, x.labels[k]? = some l → (t.drop (6 * k)).take 5 = labelText l) ∧
    (∀ k, k + 1 < x.labels.length → t[6 * k + 5]? = some 0x2D#8) ∧
    (x.wellFormed = true → (∀ c ∈ t, isConsonant c = true ∨ isVowel c = true ∨ c = 0x2D#8) ∧
      t.count 0x2D#8 + 1 = x.labels.length)

/-- R65: append issues one ENC, keeps the labels and puts the new one last; it is encode of the longer sequence. -/
def Obligations.AppendAddsTheLabelLast : Prop :=
  (∀ (x : Identifier) (v : Value), x.labels ≠ [] →
    Composer.append x v = ⟨[Sys2Proof.encode (.enc v)], .ok ⟨x.labels ++ [encodeU16 v]⟩⟩) ∧
  (∀ (vs : List Value) (v : Value), vs ≠ [] → ∃ x, (Composer.encode vs).result = .ok x ∧
    (Composer.append x v).result = (Composer.encode (vs ++ [v])).result)

/-- R66: the high word first, then the low word, by shift and mask; always two labels. -/
def Obligations.EncodeWideSplitsMostSignificantFirst : Prop :=
  ∀ v : BitVec 32,
    Composer.encodeWide v = Composer.encode [(v >>> 16).setWidth 16, (v &&& 0xFFFF#32).setWidth 16] ∧
    (Composer.encodeWide v).result = .ok ⟨[encodeU16 (BitVec.ofNat 16 (v.toNat / 65536)),
      encodeU16 (BitVec.ofNat 16 (v.toNat % 65536))]⟩

/-- R67: the four words, the most significant first; always four labels. -/
def Obligations.EncodeWide64SplitsMostSignificantFirst : Prop :=
  ∀ a b c d : Value,
    Composer.encodeWide64 (a ++ b ++ c ++ d) = Composer.encode [a, b, c, d] ∧
    (Composer.encodeWide64 (a ++ b ++ c ++ d)).result =
      .ok ⟨[encodeU16 a, encodeU16 b, encodeU16 c, encodeU16 d]⟩

/-- R27, R68: two octets a word, the first the high byte; the same as encode_wide of the big-endian number. -/
def Obligations.EncodeIpv4PacksOctetsInOrder : Prop :=
  ∀ o0 o1 o2 o3 : BitVec 8,
    Composer.encodeIpv4 o0 o1 o2 o3 =
      Composer.encode [o0.setWidth 16 <<< 8 ||| o1.setWidth 16, o2.setWidth 16 <<< 8 ||| o3.setWidth 16] ∧
    Composer.encodeIpv4 o0 o1 o2 o3 = Composer.encodeWide (o0 ++ o1 ++ o2 ++ o3)

/-- From R70: the text is split at every separator, into one segment more than it has separators, and a segment of another
length than 5 is an InvalidLabelLength with nothing presented to the block. Two clauses are no plain rule: that no request
is issued is the model's own (assumption 9, DESIGN CHOICE), and that the length error comes before an earlier bad
character rests on the spec's decision D19, assumed as U8 asks. -/
def Obligations.SeparatorModeChecksEverySegment : Prop :=
  ∀ t : Text, 0x2D#8 ∈ t →
    (Composer.splitAtSep t).length = t.count 0x2D#8 + 1 ∧
    [0x2D#8].intercalate (Composer.splitAtSep t) = t ∧
    (∀ seg ∈ Composer.splitAtSep t, 0x2D#8 ∉ seg) ∧
    ((∃ seg ∈ Composer.splitAtSep t, seg.length ≠ 5) → Composer.parse t = ⟨[], .err .invalidLabelLength⟩) ∧
    ((∀ seg ∈ Composer.splitAtSep t, seg.length = 5) →
      ∃ ls, Composer.segments t = .ok ls ∧ ls.map labelText = Composer.splitAtSep t)

/-- From R71: text without a separator is cut into groups of five, in order; a length that is no multiple of 5 is an
InvalidLabelLength with nothing presented to the block. Two clauses are no plain rule: that no request is issued is the
model's own (assumption 9, DESIGN CHOICE), and that the length error comes before a bad character in an earlier group
rests on the spec's decision D19, assumed as U8 asks. -/
def Obligations.ChunkModeCutsGroupsOfFive : Prop :=
  ∀ t : Text, t ≠ [] → 0x2D#8 ∉ t →
    (t.length % 5 ≠ 0 → Composer.parse t = ⟨[], .err .invalidLabelLength⟩) ∧
    (t.length % 5 = 0 → ∃ ls, Composer.segments t = .ok ls ∧ ls.flatMap labelText = t)

/-- From R72: phase 1 first, over the whole text, its one error InvalidLabelLength; then one DEC for each label in order, the
first failure being the result and the later labels not presented; without a failure the identifier of all labels. Two
clauses are no plain rule: that phase 1 issues no request is the model's own (assumption 9, DESIGN CHOICE), and the order
of the phases is the spec's decision D19, assumed as U8 asks. -/
def Obligations.ParseReportsTheFirstFailure : Prop :=
  (∀ t e, t ≠ [] → Composer.segments t = .error e →
    e = .invalidLabelLength ∧ Composer.parse t = ⟨[], .err .invalidLabelLength⟩) ∧
  (∀ t before l after e, t ≠ [] → Composer.segments t = .ok (before ++ l :: after) →
    (∀ m ∈ before, m.wellFormed = true) → decodeLabel 5#3 l = .error e →
    Composer.parse t = ⟨(before ++ [l]).map fun m => Sys2Proof.encode (.dec 5#3 m), .err e⟩) ∧
  (∀ t ls, t ≠ [] → Composer.segments t = .ok ls → (∀ m ∈ ls, m.wellFormed = true) →
    Composer.parse t = ⟨ls.map fun m => Sys2Proof.encode (.dec 5#3 m), .ok ⟨ls⟩⟩)

/-- R95: a host that issues a DEC for every segment before it looks at a response, and takes the first error in segment
order, has the result of parse. That neither issues a request where phase 1 fails is the model's own (assumption 9,
DESIGN CHOICE); the order of the phases is the spec's decision D19, assumed as U8 asks. -/
def Obligations.ParsingAheadHasTheSameResult : Prop :=
  ∀ t, (Composer.parseAhead t).result = (Composer.parse t).result ∧
    (Composer.parse t).requests <+: (Composer.parseAhead t).requests

/-- R73: one DEC for each label, no error, and the values whose labels they are. -/
def Obligations.ToValuesDecodesEachLabel : Prop :=
  ∀ x : Identifier, x.wellFormed = true → ∃ vs,
    Composer.toValues x = ⟨x.labels.map fun m => Sys2Proof.encode (.dec 5#3 m), .ok vs⟩ ∧ vs.map encodeU16 = x.labels

/-- R38: a segment of another length than 5, presented by its length, is InvalidLabelLength; one of 5 is decoded. That the
characters beyond the fifth are not presented is the model's own (assumption 10, DEDUCED). -/
def Obligations.SegmentOfAnyLengthIsDecoded : Prop :=
  (∀ t : Text, t.length ≠ 5 → Composer.decSegment t = .error .invalidLabelLength) ∧
    ∀ l : Label, Composer.decSegment (labelText l) = decodeLabel 5#3 l

/-- R61, R97: every identifier the composer makes is well formed: text from outside gets in only by passing DEC, and
append keeps well-formedness. -/
def Obligations.ComposerMakesWellFormedIdentifiers : Prop :=
  (∀ t x, (Composer.parse t).result = .ok x → x.wellFormed = true) ∧
  (∀ vs x, (Composer.encode vs).result = .ok x → x.wellFormed = true) ∧
  (∀ x v y, x.wellFormed = true → (Composer.append x v).result = .ok y → y.wellFormed = true)

/-- R74: the round trip of sequences, of canonical text, and of encode alone. -/
def Obligations.SequenceRoundTrip : Prop :=
  (∀ vs : List Value, vs ≠ [] → ∃ x t, (Composer.encode vs).result = .ok x ∧ Composer.toText x = .ok t ∧
    (Composer.parse t).result = .ok x ∧ (Composer.toValues x).result = .ok vs) ∧
  (∀ (y : Identifier) t x, Composer.toText y = .ok t → (Composer.parse t).result = .ok x → Composer.toText x = .ok t)

/-- R75: the text of an identifier and the same text without its separators parse to that identifier. -/
def Obligations.SeparatorsAreOptionalOnInput : Prop :=
  ∀ x : Identifier, x.wellFormed = true → ∃ t, Composer.toText x = .ok t ∧ (Composer.parse t).result = .ok x ∧
    (Composer.parse (t.filter (· ≠ 0x2D#8))).result = .ok x

/-- R4, R30, R62, R73: the host's operations carried out on the clocked machine of any LATENCY. Presenting the requests
of encode, the responses read as the labels of its identifier; presenting those of to_values, they read as its values.
That the LATENCY cycles past the list are idle is the model's own (assumption 3, DESIGN CHOICE), and so is the record
`delivered` (assumption 4). -/
def Obligations.ComposerRunsOnTheMachine : Prop :=
  (∀ (latency : Nat) (vs : List Value) (x : Identifier), (Composer.encode vs).result = .ok x →
    ∃ t, run (vs.length + latency) { State.resetWith latency with
        inputs := (Composer.encode vs).requests.map PortIn.request } = .next t ∧
      t.delivered.map readLabel = x.labels) ∧
  (∀ (latency : Nat) (x : Identifier) (vs : List Value), (Composer.toValues x).result = .ok vs →
    ∃ t, run (x.labels.length + latency) { State.resetWith latency with
        inputs := (Composer.toValues x).requests.map PortIn.request } = .next t ∧
      t.delivered.map readValue = vs.map .ok)
end

