-- ==== Sys2Proof/Laws/Composer.lean ====
section
/-! SUPPORT. What the text functions of the composer can do. -/

namespace Sys2Proof.Composer

open Sys2Proof.Machine

/-- A text has at least one segment. -/
theorem splitAtSep_ne_nil (t : Text) : splitAtSep t ≠ [] := by
  cases t with
  | nil => simp [splitAtSep]
  | cons c cs =>
    rw [splitAtSep]
    split
    · simp
    · split <;> simp

/-- A segment is a label's five bytes, or is none and has another length. -/
theorem labelOfText_cases (t : Text) :
    (∃ l, labelOfText? t = some l ∧ labelText l = t) ∨ (labelOfText? t = none ∧ t.length ≠ 5) := by
  match t with
  | [] => simp [labelOfText?]
  | [_] => simp [labelOfText?]
  | [_, _] => simp [labelOfText?]
  | [_, _, _] => simp [labelOfText?]
  | [_, _, _, _] => simp [labelOfText?]
  | [a, b, c, d, e] => exact .inl ⟨⟨a, b, c, d, e⟩, rfl, rfl⟩
  | _ :: _ :: _ :: _ :: _ :: _ :: _ => simp [labelOfText?]

/-- Segments are the bytes of labels, or one of them has another length and that is the error. -/
theorem labelsOf_cases (segs : List Text) :
    (∃ ls, labelsOf segs = .ok ls ∧ ls.map labelText = segs) ∨
      (labelsOf segs = .error .invalidLabelLength ∧ ∃ seg ∈ segs, seg.length ≠ 5) := by
  induction segs with
  | nil => exact .inl ⟨[], rfl, rfl⟩
  | cons seg segs ih =>
    rcases labelOfText_cases seg with ⟨l, h1, h2⟩ | ⟨h1, h2⟩
    · rcases ih with ⟨ls, h3, h4⟩ | ⟨h3, bad, h4, h5⟩
      · exact .inl ⟨l :: ls, by simp [labelsOf, h1, h3], by simp [h2, h4]⟩
      · exact .inr ⟨by simp [labelsOf, h1, h3], bad, by simp [h4], h5⟩
    · exact .inr ⟨by simp [labelsOf, h1], seg, by simp, h2⟩

/-- The text of two labels or more. -/
theorem joinLabels_cons (l : Label) (ls : List Label) (h : ls ≠ []) :
    joinLabels (l :: ls) = labelText l ++ sep :: joinLabels ls := by
  cases ls with
  | nil => exact absurd rfl h
  | cons m ms => rfl

/-- The groups of a text, put together, are the text. -/
theorem chunks_flatten : ∀ t : Text, (chunks t).flatten = t
  | [] => rfl
  | [_] => rfl
  | [_, _] => rfl
  | [_, _, _] => rfl
  | [_, _, _, _] => rfl
  | a :: b :: c :: d :: e :: rest => by simp [chunks, chunks_flatten rest]

end Sys2Proof.Composer
end

