-- ==== Sys2Proof/Laws/Encoding.lean ====
section
/-! SUPPORT. The words as numbers: concatenation and slices in arithmetic, the encoded words, the packed label, and the
fields of a response word. -/

namespace Sys2Proof.Machine

/-- The number of a concatenation: the left part times the weight of the right one, plus the right one. -/
theorem append_toNat_add {n m : Nat} (x : BitVec n) (y : BitVec m) : (x ++ y).toNat = x.toNat * 2 ^ m + y.toNat := by
  rw [BitVec.toNat_append, ← Nat.shiftLeft_add_eq_or_of_lt y.isLt, Nat.shiftLeft_eq]

/-- The number of a slice, by division and remainder. -/
theorem slice_toNat {n : Nat} (x : BitVec n) (lo len : Nat) :
    (x.extractLsb' lo len).toNat = x.toNat / 2 ^ lo % 2 ^ len := by
  simp [BitVec.extractLsb'_toNat, Nat.shiftRight_eq_div_pow]

/-- The canonical ENC word is the value (R37). -/
theorem encode_enc_toNat (v : Value) : (encode (.enc v)).toNat = v.toNat := by
  rw [encode, append_toNat_add]
  simp

/-- The DEC word in its three fields (R36, R38). -/
theorem encode_dec_toNat (len : LenField) (ch : Label) :
    (encode (.dec len ch)).toNat = (8 + len.toNat) * 2 ^ 40 + (pack ch).toNat := by
  rw [encode, append_toNat_add, append_toNat_add]
  simp only [BitVec.toNat_ofNat]
  omega

/-- `REQ[43]` is the top digit's high bit. -/
theorem reqOp_eq_decide (w : ReqWord) : reqOp w = decide (w.toNat / 2 ^ 43 = 1) := by
  unfold reqOp
  rw [BitVec.getLsbD, Nat.testBit_eq_decide_div_mod_eq]
  have := w.isLt
  congr 1
  apply propext
  omega

/-- Every status is read back from its code (R40). -/
@[simp] theorem statusOfCode_statusCode (st : Status) : statusOfCode (statusCode st) = st := by
  cases st <;> rfl

/-- The number of a response word in its three fields (R39). -/
theorem rspWord_toNat (st : Status) (c : CharCode) (r : Packed) :
    (rspWord st c r).toNat = ((statusCode st).toNat * 2 ^ 8 + c.toNat) * 2 ^ 40 + r.toNat := by
  rw [rspWord, append_toNat_add, append_toNat_add]

/-- The field `status` of a word made of three fields. -/
theorem rspStatus_rspWord (st : Status) (c : CharCode) (r : Packed) : rspStatus (rspWord st c r) = st := by
  have := c.isLt
  have := r.isLt
  have := (statusCode st).isLt
  have h : (rspWord st c r).extractLsb' 48 2 = statusCode st := by
    apply BitVec.eq_of_toNat_eq
    rw [slice_toNat, rspWord_toNat]
    omega
  rw [rspStatus, h, statusOfCode_statusCode]

/-- The field `err_char` of a word made of three fields. -/
theorem rspErrChar_rspWord (st : Status) (c : CharCode) (r : Packed) : rspErrChar (rspWord st c r) = c := by
  have := c.isLt
  have := r.isLt
  apply BitVec.eq_of_toNat_eq
  rw [rspErrChar, slice_toNat, rspWord_toNat]
  omega

/-- The field `result` of a word made of three fields. -/
theorem rspResult_rspWord (st : Status) (c : CharCode) (r : Packed) : rspResult (rspWord st c r) = r := by
  have := r.isLt
  apply BitVec.eq_of_toNat_eq
  rw [rspResult, slice_toNat, rspWord_toNat]
  omega

end Sys2Proof.Machine
end

