-- ==== Sys2Proof/Laws/State.lean ====
section
/-! SUPPORT. One lemma for each field after each update of the state, true by rfl, so that no later proof unfolds an
update. -/

namespace Sys2Proof.Machine

@[simp] theorem present_inputs (d : Option RspWord) (s : State) : (present d s).inputs = s.inputs := rfl
@[simp] theorem present_pipe (d : Option RspWord) (s : State) : (present d s).pipe = s.pipe := rfl
@[simp] theorem present_rspValid (d : Option RspWord) (s : State) : (present d s).rspValid = d.isSome := rfl
@[simp] theorem present_rsp (d : Option RspWord) (s : State) : (present d s).rsp = d.getD 0 := rfl
@[simp] theorem present_accepted (d : Option RspWord) (s : State) : (present d s).accepted = s.accepted := rfl
@[simp] theorem present_delivered (d : Option RspWord) (s : State) :
    (present d s).delivered = s.delivered ++ d.toList := rfl

@[simp] theorem clock_inputs (e : Option RspWord) (s : State) : (clock e s).inputs = s.inputs := rfl
@[simp] theorem clock_pipe (e : Option RspWord) (s : State) : (clock e s).pipe = (shiftIn s.pipe e).2 := rfl
@[simp] theorem clock_rspValid (e : Option RspWord) (s : State) :
    (clock e s).rspValid = (shiftIn s.pipe e).1.isSome := rfl
@[simp] theorem clock_rsp (e : Option RspWord) (s : State) : (clock e s).rsp = (shiftIn s.pipe e).1.getD 0 := rfl
@[simp] theorem clock_accepted (e : Option RspWord) (s : State) : (clock e s).accepted = s.accepted := rfl
@[simp] theorem clock_delivered (e : Option RspWord) (s : State) :
    (clock e s).delivered = s.delivered ++ (shiftIn s.pipe e).1.toList := rfl

@[simp] theorem takePorts_inputs (s : State) : (takePorts s).inputs = s.inputs.tail := rfl
@[simp] theorem takePorts_pipe (s : State) : (takePorts s).pipe = s.pipe := rfl
@[simp] theorem takePorts_rspValid (s : State) : (takePorts s).rspValid = s.rspValid := rfl
@[simp] theorem takePorts_rsp (s : State) : (takePorts s).rsp = s.rsp := rfl
@[simp] theorem takePorts_accepted (s : State) : (takePorts s).accepted = s.accepted := rfl
@[simp] theorem takePorts_delivered (s : State) : (takePorts s).delivered = s.delivered := rfl

@[simp] theorem accept_inputs (w : ReqWord) (s : State) : (accept w s).inputs = s.inputs := rfl
@[simp] theorem accept_pipe (w : ReqWord) (s : State) : (accept w s).pipe = s.pipe := rfl
@[simp] theorem accept_rspValid (w : ReqWord) (s : State) : (accept w s).rspValid = s.rspValid := rfl
@[simp] theorem accept_rsp (w : ReqWord) (s : State) : (accept w s).rsp = s.rsp := rfl
@[simp] theorem accept_accepted (w : ReqWord) (s : State) : (accept w s).accepted = s.accepted ++ [w] := rfl
@[simp] theorem accept_delivered (w : ReqWord) (s : State) : (accept w s).delivered = s.delivered := rfl

@[simp] theorem resetCycle_inputs (s : State) : (resetCycle s).inputs = s.inputs := rfl
@[simp] theorem resetCycle_pipe (s : State) : (resetCycle s).pipe = List.replicate s.latency none := rfl
@[simp] theorem resetCycle_rspValid (s : State) : (resetCycle s).rspValid = false := rfl
@[simp] theorem resetCycle_rsp (s : State) : (resetCycle s).rsp = 0 := rfl
@[simp] theorem resetCycle_accepted (s : State) : (resetCycle s).accepted = [] := rfl
@[simp] theorem resetCycle_delivered (s : State) : (resetCycle s).delivered = [] := rfl

@[simp] theorem resetWith_inputs (n : Nat) : (State.resetWith n).inputs = [] := rfl
@[simp] theorem resetWith_pipe (n : Nat) : (State.resetWith n).pipe = List.replicate n none := rfl
@[simp] theorem resetWith_rspValid (n : Nat) : (State.resetWith n).rspValid = false := rfl
@[simp] theorem resetWith_rsp (n : Nat) : (State.resetWith n).rsp = 0 := rfl
@[simp] theorem resetWith_accepted (n : Nat) : (State.resetWith n).accepted = [] := rfl
@[simp] theorem resetWith_delivered (n : Nat) : (State.resetWith n).delivered = [] := rfl

end Sys2Proof.Machine
end

