-- ==== Sys2Proof/Laws/Ops.lean ====
section
/-! SUPPORT. One lemma for each shared operation that says once everything it can do. -/

namespace Sys2Proof.Machine

/-- With LATENCY 0 the entry is due at once; else the oldest is due and the entry joins the far end. -/
theorem shiftIn_cases (pipe : List (Option RspWord)) (e : Option RspWord) :
    (pipe = [] ∧ shiftIn pipe e = (e, [])) ∨
      ∃ due rest, pipe = due :: rest ∧ shiftIn pipe e = (due, rest ++ [e]) := by
  cases pipe with
  | nil => exact .inl ⟨rfl, rfl⟩
  | cons due rest => exact .inr ⟨due, rest, rfl, rfl⟩

/-- What is due and what stays in flight is the pipe with the entry at its far end: nothing is lost. -/
theorem shiftIn_cons_eq (pipe : List (Option RspWord)) (e : Option RspWord) :
    (shiftIn pipe e).1 :: (shiftIn pipe e).2 = pipe ++ [e] := by
  cases pipe <;> rfl

/-- LATENCY is kept. -/
@[simp] theorem shiftIn_length (pipe : List (Option RspWord)) (e : Option RspWord) :
    (shiftIn pipe e).2.length = pipe.length := by
  cases pipe <;> simp [shiftIn]

/-- An accumulator step at a consonant position succeeds with the looked-up index, or fails with the lookup's error. -/
theorem accConsonant_cases (acc : Value) (c : CharCode) :
    (∃ i, consonantValue c = .ok i ∧ accConsonant acc c = .ok ((acc <<< 4) + i.setWidth 16)) ∨
      ∃ e, consonantValue c = .error e ∧ accConsonant acc c = .error e := by
  cases h : consonantValue c with
  | ok i => exact .inl ⟨i, rfl, by simp [accConsonant, h]⟩
  | error e => exact .inr ⟨e, rfl, by simp [accConsonant, h]⟩

/-- The same at a vowel position. -/
theorem accVowel_cases (acc : Value) (c : CharCode) :
    (∃ i, vowelValue c = .ok i ∧ accVowel acc c = .ok ((acc <<< 2) + i.setWidth 16)) ∨
      ∃ e, vowelValue c = .error e ∧ accVowel acc c = .error e := by
  cases h : vowelValue c with
  | ok i => exact .inl ⟨i, rfl, by simp [accVowel, h]⟩
  | error e => exact .inr ⟨e, rfl, by simp [accVowel, h]⟩

/-- The predicate and the lookup of consonants agree. -/
theorem isConsonant_iff_lookup (c : CharCode) : isConsonant c = true ↔ ∃ i, consonantValue c = .ok i := by
  revert c; decide

/-- The predicate and the lookup of vowels agree. -/
theorem isVowel_iff_lookup (c : CharCode) : isVowel c = true ↔ ∃ i, vowelValue c = .ok i := by
  revert c; decide

/-- The separator is in neither alphabet (R64). -/
theorem separator_in_neither_alphabet : isConsonant 0x2D#8 = false ∧ isVowel 0x2D#8 = false := by decide

/-- One step is one of three cycles: reset, a request run, or nothing accepted. -/
theorem step_cases (s : State) :
    ((nextPorts s).rst = true ∧ step s = .next (resetCycle (takePorts s))) ∨
      ((nextPorts s).rst = false ∧ (nextPorts s).reqValid = true ∧
        step s = exec (decode (nextPorts s).req) (accept (nextPorts s).req (takePorts s))) ∨
      ((nextPorts s).rst = false ∧ (nextPorts s).reqValid = false ∧ step s = .next (clock none (takePorts s))) := by
  cases h : (nextPorts s).rst <;> cases h' : (nextPorts s).reqValid <;> simp [step, h, h']

end Sys2Proof.Machine
end

