-- ==== Sys2Proof/Laws/PerInstr.lean ====
section
/-! SUPPORT. Statements made for each instruction. -/

namespace Sys2Proof.Laws

/-- The `match` value of the instruction's row in spec/opcode_table.json. -/
def tableMatch : Instr → ReqWord
  | .enc _ => 0x00000000000#44
  | .dec _ _ => 0x80000000000#44

/-- The `mask` of the instruction's row in spec/opcode_table.json. -/
def tableMask : Instr → ReqWord
  | .enc _ => 0x80000000000#44
  | .dec _ _ => 0x80000000000#44

/-- The encoded word carries the opcode the table gives the row, and the instruction is well formed (R43, R44). -/
def TableMatch.Statement (i : Instr) : Prop :=
  Sys2Proof.encode i &&& tableMask i = tableMatch i ∧ i.wellFormed = true

theorem TableMatch.enc (value : Value) : TableMatch.Statement (.enc value) := by
  refine ⟨?_, rfl⟩
  apply BitVec.eq_of_getLsbD_eq
  intro k hk
  have : ∀ k < 44, (0x80000000000#44).getLsbD k = decide (k = 43) := by decide
  simp only [tableMask, tableMatch, encode, BitVec.getLsbD_and, BitVec.getLsbD_append, BitVec.getLsbD_zero, this k hk]
  rcases Nat.lt_or_ge k 16 with h | h
  · simp [h]
    omega
  · simp [h]

theorem TableMatch.dec (len : LenField) (ch : Label) : TableMatch.Statement (.dec len ch) := by
  refine ⟨?_, rfl⟩
  apply BitVec.eq_of_getLsbD_eq
  intro k hk
  have : ∀ k < 44, (0x80000000000#44).getLsbD k = decide (k = 43) := by decide
  simp only [tableMask, tableMatch, encode, BitVec.getLsbD_and, BitVec.getLsbD_append, this k hk]
  rcases Nat.lt_or_ge k 43 with h | h
  · have : k ≠ 43 := by omega
    simp [this]
  · obtain rfl : k = 43 := by omega
    simp

end Sys2Proof.Laws
end

