-- ==== Sys2Proof/Laws/Run.lean ====
section
/-! SUPPORT. Runs of the machine, one cycle at a time, and what a clock edge does to the responses presented and in
flight. -/

namespace Sys2Proof.Machine

@[simp] theorem run_zero (s : State) : run 0 s = .next s := rfl

/-- A run of one more cycle is a step and then the run. -/
theorem run_succ (k : Nat) (s : State) :
    run (k + 1) s = match step s with
      | .next t => run k t
      | .fault r => .fault r
      | .refused r => .refused r := by
  cases h : step s <;>
    · have h' : Sys2Proof.core.step s = _ := h
      simp only [run, Host.Core.run, h']
      rfl

/-- A run is cut where it answers next. -/
theorem run_add (a b : Nat) (s t : State) (h : run a s = .next t) : run (a + b) s = run b t := by
  induction a generalizing s with
  | zero => cases h; simp
  | succ a ih =>
    rw [run_succ] at h
    rw [Nat.add_right_comm, run_succ]
    cases hs : step s with
    | next u => rw [hs] at h; exact ih u h
    | fault r => rw [hs] at h; cases h
    | refused r => rw [hs] at h; cases h

/-- What is due and the responses that stay in flight are those that were in flight and then the entry's. -/
theorem shiftIn_filterMap (pipe : List (Option RspWord)) (e : Option RspWord) :
    (shiftIn pipe e).1.toList ++ (shiftIn pipe e).2.filterMap id = pipe.filterMap id ++ e.toList := by
  have h := congrArg (List.filterMap id) (shiftIn_cons_eq pipe e)
  rw [List.filterMap_append, List.filterMap_cons] at h
  cases h1 : (shiftIn pipe e).1 <;> cases e <;> simp_all

/-- A clock edge loses no response: those presented and those in flight are what they were and then the entry's. -/
theorem clock_keeps_responses (e : Option RspWord) (s : State) :
    (clock e s).delivered ++ inFlight (clock e s) = s.delivered ++ inFlight s ++ e.toList := by
  simp only [inFlight, clock_delivered, clock_pipe, List.append_assoc]
  rw [shiftIn_filterMap]

end Sys2Proof.Machine
end

