-- ==== Sys2Proof/Tests/Slice0.lean ====
section
/-! SUPPORT. The model's own tests: words written out from the spec's layouts and its vectors (spec/95_test_vectors.md,
spec/41_label_codec.md), ill-formed terms the checks refuse, and for each statement with hypotheses a concrete case that
meets them. -/

namespace Sys2Proof.Machine.Tests

/-- A machine of LATENCY 0 about to be given the request word `w`. -/
def given (w : ReqWord) : State := { State.reset with inputs := [PortIn.request w] }

/-- The outputs `rsp_valid` and `rsp` after one step, where it answers next. -/
def outputs (s : State) : Option (Bool × RspWord) :=
  match step s with
  | .next t => some (t.rspValid, t.rsp)
  | _ => none

/-- Bytes as a label, zeros where there are too few. -/
def lab (t : String) : Label := leftJustify (asciiText t)

/-! Decoding: words bit by bit from R37 and R38. -/

theorem test_decode_enc : decode 0b0_000_000000000000000000000000_0111111100000000#44 = .enc 0x7F00#16 := by decide
theorem test_decode_dec :
    decode 0b1_101_01101100_01110101_01110011_01100001_01100010#44 =
      .dec 5#3 ⟨0x6C#8, 0x75#8, 0x73#8, 0x61#8, 0x62#8⟩ := by decide
theorem test_table_word_too_wide : decodeNat (2 ^ 44) = .error .widerThanRequest := by decide

/-! ENC (95 section 2.2). -/

theorem test_enc_beef : outputs (given 0x0000000BEEF#44) = some (true, 0x0007275726F7A#50) := by decide
theorem test_enc_ignored_bits : outputs (given 0x7FFFFFF7F00#44) = some (true, 0x0006C75736162#50) := by decide

/-! DEC (95 section 2.3). -/

theorem test_dec_fakav : outputs (given 0xD66616B6176#44) = some (true, 0x000000000218E#50) := by decide
theorem test_dec_leftmost_vowel : outputs (given 0xD6258625862#44) = some (true, 0x3580000000000#50) := by decide

/-! Written lines (R45) and pseudo-operations (95 sections 1.2 to 1.4, 2.5). -/

theorem test_answer_enc : answer (.enc 0x7F00) = .label (lab "lusab") := by decide
theorem test_answer_dec_len : answer (.decLen 3 (asciiText "bab")) = .error .invalidLabelLength := by decide

/-- The text of a successful encoding. -/
def textOf (r : Composer.HostRun Identifier) : Composer.HostResult Text :=
  match r.result with
  | .ok x => Composer.toText x
  | .err e => .err e
  | .refused e => .refused e

theorem test_encode_wide64 : textOf (Composer.encodeWide64 0x0123456789ABCDEF) =
    .ok (asciiText "bahog-hijol-mokor-suloz") := by decide
theorem test_encode_wide : textOf (Composer.encodeWide 1) = .ok (asciiText "babab-babad") := by decide
theorem test_encode_ipv4 : textOf (Composer.encodeIpv4 216 35 68 215) = .ok (asciiText "tobog-higil") := by decide
theorem test_parse_stops_at_first_error : Composer.parse (asciiText "tobog-hegil-XXXXX") =
    ⟨[0xD746F626F67#44, 0xD686567696C#44], .err (.invalidVowel 0x65)⟩ := by decide
theorem test_parse_length_first : Composer.parse (asciiText "XXXXX-bab") = ⟨[], .err .invalidLabelLength⟩ := by decide
theorem test_to_values : (Composer.toValues ⟨[lab "lusab", lab "babad"]⟩).result = .ok [0x7F00, 0x0001] := by decide
theorem test_append : (Composer.append ⟨[lab "lusab"]⟩ 1).result = .ok ⟨[lab "lusab", lab "babad"]⟩ := by decide

/-! Well-formedness: every request is well formed (R43); an ill-formed term for each check of labels and identifiers. -/

theorem test_instr_wellFormed (i : Instr) : i.wellFormed = true := by cases i <;> rfl
theorem test_label_wellFormed : (lab "lusab").wellFormed = true := by decide
theorem test_label_ill_formed_at_0 : (lab "aabab").wellFormed = false := by decide
theorem test_label_ill_formed_at_1 : (lab "bbbab").wellFormed = false := by decide
theorem test_label_ill_formed_at_2 : (lab "baqab").wellFormed = false := by decide
theorem test_label_ill_formed_at_3 : (lab "babyb").wellFormed = false := by decide
theorem test_label_ill_formed_at_4 : (lab "babaB").wellFormed = false := by decide
theorem test_identifier_ill_formed_empty : (Identifier.mk []).wellFormed = false := by decide
theorem test_identifier_ill_formed_label : (Identifier.mk [lab "lusab", lab "XXXXX"]).wellFormed = false := by decide

/-! Witnesses: a case that meets the hypotheses of each clause, at the ends of the ranges. -/

theorem witness_TablesAreInjectiveAndDisjoint : cons 15 = cons 15 ∧ vow 3 = vow 3 := by decide
theorem witness_LookupsInvertTheTables :
    consonantValue 0x7A = .ok 15 ∧ consonantValue 0x62 = .ok 0 ∧ vowelValue 0x61 = .ok 0 ∧ vowelValue 0x75 = .ok 3 := by
  decide
theorem witness_LookupsReturnIndexOrCarryCharacter :
    cons 15 = 0x7A ∧ (∀ i, cons i ≠ 0x61) ∧ vow 3 = 0x75 ∧ ∀ i, vow i ≠ 0xFF := by decide
theorem witness_DecoderReadsTheFields :
    (0x7FFFFFFFFFF#44).toNat / 2 ^ 43 = 0 ∧ (0x80000000000#44).toNat / 2 ^ 43 = 1 := by decide
theorem witness_EncodeOfDecodeClearsIgnoredBits : reqOp 0x80000000000#44 = true ∧ reqOp 0x7FFFFFFFFFF#44 = false := by
  decide
theorem witness_TableWordsGoThroughTheDecoder :
    (2 ^ 44 - 1 < 2 ^ 44 ∧ 2 ^ 44 - 1 < 2 ^ 48) ∧ (2 ^ 44 < 2 ^ 48 ∧ 2 ^ 44 ≤ 2 ^ 44) := by decide
theorem witness_EveryRequestWordIsLegal :
    (reqOp 0x5ABCDEF7F00#44 = false ∧ reqOp 0x7FFFFFF7F00#44 = false ∧
      (0x5ABCDEF7F00#44).setWidth 16 = (0x7FFFFFF7F00#44).setWidth 16) ∧
    (reqOp 0xC6261626162#44 = true ∧ reqOp 0xC0000000000#44 = true ∧ reqLen 0xC6261626162#44 ≠ 5#3 ∧
      reqLen 0xC6261626162#44 = reqLen 0xC0000000000#44) ∧
    (reqOp 0xE6261626162#44 = true ∧ reqLen 0xE6261626162#44 ≠ 5#3) := by decide
theorem witness_ResponseWordOfEachOutcome :
    decodeLabel 5#3 (lab "zuzuz") = .ok 0xFFFF ∧ decodeLabel 4#3 (lab "zuzuz") = .error .invalidLabelLength ∧
      decodeLabel 5#3 (lab "zuzu ") = .error (.invalidConsonant 0x20) ∧
      decodeLabel 5#3 (lab "babyb") = .error (.invalidVowel 0x79) := by decide
theorem witness_EncAnswersTheCharactersOfTheFields :
    reqOp 0x7FFFFFFFFFF#44 = false ∧ encodeU16 0xFFFF = encodeU16 0xFFFF := by decide
theorem witness_DecAnswersInvalidLabelLengthExactlyOnOtherLengths : (4#3 ≠ 5#3) ∧ (6#3 ≠ 5#3) ∧ (0#3 ≠ 5#3) := by decide
theorem witness_DecReportsTheLeftmostOffendingCharacter_0 : isConsonant (lab "aabab").c0 = false := by decide
theorem witness_DecReportsTheLeftmostOffendingCharacter_1 :
    isConsonant (lab "bXbXb").c0 = true ∧ isVowel (lab "bXbXb").c1 = false := by decide
theorem witness_DecReportsTheLeftmostOffendingCharacter_2 :
    isConsonant (lab "baXbX").c0 = true ∧ isVowel (lab "baXbX").c1 = true ∧ isConsonant (lab "baXbX").c2 = false := by
  decide
theorem witness_DecReportsTheLeftmostOffendingCharacter_3 :
    isConsonant (lab "babXX").c0 = true ∧ isVowel (lab "babXX").c1 = true ∧ isConsonant (lab "babXX").c2 = true ∧
      isVowel (lab "babXX").c3 = false := by decide
theorem witness_DecReportsTheLeftmostOffendingCharacter_4 :
    isConsonant (lab "baba-").c0 = true ∧ isVowel (lab "baba-").c1 = true ∧ isConsonant (lab "baba-").c2 = true ∧
      isVowel (lab "baba-").c3 = true ∧ isConsonant (lab "baba-").c4 = false := by decide
theorem witness_AccumulatorNeverCarries :
    (accConsonant 0xFFF#16 0x7A = .ok 0xFFFF ∧ (0xFFF#16).toNat < 2 ^ 12) ∧
      (accVowel 0x3FFF#16 0x75 = .ok 0xFFFF ∧ (0x3FFF#16).toNat < 2 ^ 14) := by decide
theorem witness_LabelRoundTrip :
    decodeLabel 5#3 (lab "zuzuz") = .ok 0xFFFF ∧ encodeU16 0 = encodeU16 0 ∧
      decodeLabel 5#3 (lab "babab") = .ok 0 ∧ (lab "zuzuz").wellFormed = true := by decide

/-- A machine of LATENCY 2 with one transaction in flight, and a request, an idle cycle and a reset to come. -/
def busy : State :=
  { inputs := [PortIn.request 0x7F00#44, ⟨false, false, 0x1#44⟩, ⟨true, true, 0x1#44⟩]
    pipe := [some 0x0006261626164#50, none]
    rspValid := false
    rsp := 0
    accepted := [0x1#44]
    delivered := [] }

theorem witness_StepRunsTheDecodedRequest :
    busy.inputs = PortIn.request 0x7F00#44 :: busy.inputs.tail ∧ (PortIn.request 0x7F00#44).rst = false ∧
      (PortIn.request 0x7F00#44).reqValid = true := by decide
theorem witness_PlacedWordIsRunNext : 0xD6C75736162 < 2 ^ 48 ∧ 0xD6C75736162 < 2 ^ 44 := by decide
theorem witness_OperationCompletesAndChangesNothingElse :
    State.reset.pipe = [] ∧ busy.pipe = some 0x0006261626164#50 :: [none] := by decide
theorem witness_IdleCycleMovesThePipe :
    ({ busy with inputs := busy.inputs.tail } : State).inputs = ⟨false, false, 0x1#44⟩ :: [⟨true, true, 0x1#44⟩] ∧
      busy.pipe = some 0x0006261626164#50 :: [none] := by decide
theorem witness_IdleCycleMovesThePipe_empty :
    ({ State.reset with inputs := [PortIn.idle] } : State).inputs = ⟨false, false, 0#44⟩ :: [] ∧ State.reset.pipe = [] ∧
      (State.resetWith 1).pipe = none :: [] := by decide
theorem witness_ResetDiscardsEverythingInFlight :
    ({ busy with inputs := [⟨true, true, 0x1#44⟩] } : State).inputs = ⟨true, true, 0x1#44⟩ :: [] ∧
      (⟨true, true, 0x1#44⟩ : PortIn).rst = true := by decide
theorem witness_NoResponseBeforeTheFirstRequest :
    ∀ p ∈ [(⟨false, false, 0x1#44⟩ : PortIn), ⟨true, false, 0x1#44⟩], p.reqValid = false := by decide
theorem witness_StepKeepsTheChannelInvariant : ChannelInv busy ∧ ∃ t, step busy = .next t :=
  ⟨⟨by unfold InOrder; decide, by unfold OutputsAgree; decide⟩, _, rfl⟩
theorem witness_ResponseComesLatencyCyclesLater :
    ({ busy with inputs := [PortIn.request 0x7F00#44, ⟨false, true, 0x1#44⟩] } : State).inputs =
        PortIn.request 0x7F00#44 :: [⟨false, true, 0x1#44⟩] ∧
      ∀ p ∈ [(⟨false, true, 0x1#44⟩ : PortIn)].take busy.latency, p.rst = false := by decide
theorem witness_ResponseComesLatencyCyclesLater_zero :
    (given 0x7F00#44).inputs = PortIn.request 0x7F00#44 :: [] ∧ (given 0x7F00#44).latency = 0 ∧
      ∀ p ∈ ([] : List PortIn).take 0, p.rst = false := by decide
theorem witness_NthResponseAnswersNthRequest :
    ∃ t, run 1 { State.resetWith 0 with inputs := [PortIn.request 0x1#44] } = .next t ∧
      t.delivered[0]? = some 0x0006261626164#50 := ⟨_, rfl, by decide⟩
theorem witness_EveryRequestIsAnsweredInOrder :
    ∀ p ∈ ({ busy with inputs := [PortIn.request 0x7F00#44, ⟨false, false, 0x1#44⟩] } : State).inputs, p.rst = false := by
  decide

theorem witness_EncodeIssuesOneEncForEachValue : ([0x7F00#16] : List Value) ≠ [] := by decide
theorem witness_ToTextJoinsLabelsBySingleSeparators :
    (Identifier.mk [lab "lusab", lab "babad"]).labels ≠ [] ∧
      (Identifier.mk [lab "lusab", lab "babad"]).labels[1]? = some (lab "babad") ∧
      0 + 1 < (Identifier.mk [lab "lusab", lab "babad"]).labels.length ∧
      (Identifier.mk [lab "lusab", lab "babad"]).wellFormed = true := by decide
theorem witness_AppendAddsTheLabelLast :
    (Identifier.mk [lab "lusab"]).labels ≠ [] ∧ ([0x7F00#16] : List Value) ≠ [] := by decide
theorem witness_SeparatorModeChecksEverySegment :
    (0x2D#8 ∈ asciiText "lusab-" ∧ ∃ seg ∈ Composer.splitAtSep (asciiText "lusab-"), seg.length ≠ 5) ∧
      (0x2D#8 ∈ asciiText "lusab-babad" ∧ ∀ seg ∈ Composer.splitAtSep (asciiText "lusab-babad"), seg.length = 5) := by
  decide
theorem witness_ChunkModeCutsGroupsOfFive :
    (asciiText "lusabbaba" ≠ [] ∧ 0x2D#8 ∉ asciiText "lusabbaba" ∧ (asciiText "lusabbaba").length % 5 ≠ 0) ∧
      (asciiText "lusabbabad" ≠ [] ∧ 0x2D#8 ∉ asciiText "lusabbabad" ∧ (asciiText "lusabbabad").length % 5 = 0) := by
  decide
theorem witness_ParseReportsTheFirstFailure_length :
    asciiText "lusab-" ≠ [] ∧ Composer.segments (asciiText "lusab-") = .error .invalidLabelLength := by decide
theorem witness_ParseReportsTheFirstFailure_character :
    asciiText "tobog-hegil-XXXXX" ≠ [] ∧
      Composer.segments (asciiText "tobog-hegil-XXXXX") = .ok ([lab "tobog"] ++ lab "hegil" :: [lab "XXXXX"]) ∧
      (∀ m ∈ [lab "tobog"], m.wellFormed = true) ∧ decodeLabel 5#3 (lab "hegil") = .error (.invalidVowel 0x65) := by
  decide
theorem witness_ParseReportsTheFirstFailure_success :
    asciiText "gutihtugad" ≠ [] ∧ Composer.segments (asciiText "gutihtugad") = .ok [lab "gutih", lab "tugad"] ∧
      ∀ m ∈ [lab "gutih", lab "tugad"], m.wellFormed = true := by decide
theorem witness_ToValuesDecodesEachLabel : (Identifier.mk [lab "lusab", lab "babad"]).wellFormed = true := by decide
theorem witness_SegmentOfAnyLengthIsDecoded :
    (asciiText "baba").length ≠ 5 ∧ (asciiText "bababb").length ≠ 5 ∧ (asciiText "").length ≠ 5 ∧
      (asciiText "bababbababbab").length ≠ 5 := by decide
theorem witness_ComposerMakesWellFormedIdentifiers :
    (Composer.parse (asciiText "lusab")).result = .ok ⟨[lab "lusab"]⟩ ∧
      (Composer.encode [0x7F00]).result = .ok ⟨[lab "lusab"]⟩ ∧ (Identifier.mk [lab "lusab"]).wellFormed = true ∧
      (Composer.append ⟨[lab "lusab"]⟩ 1).result = .ok ⟨[lab "lusab", lab "babad"]⟩ := by decide
theorem witness_SequenceRoundTrip :
    ([0xFFFF#16, 0#16] : List Value) ≠ [] ∧
      Composer.toText ⟨[lab "lusab", lab "babad"]⟩ = .ok (asciiText "lusab-babad") ∧
      (Composer.parse (asciiText "lusab-babad")).result = .ok ⟨[lab "lusab", lab "babad"]⟩ := by decide
theorem witness_SeparatorsAreOptionalOnInput : (Identifier.mk [lab "babab", lab "babad"]).wellFormed = true := by decide
theorem witness_ComposerRunsOnTheMachine :
    (Composer.encode [0x7F00, 1]).result = .ok ⟨[lab "lusab", lab "babad"]⟩ ∧
      (Composer.toValues ⟨[lab "lusab", lab "babad"]⟩).result = .ok [0x7F00, 1] := by decide

end Sys2Proof.Machine.Tests
end

section
/-! PROOFS. A run without reset in closed form: the pipe is a window that moves along the responses in flight and then
one entry for each cycle (R30, R35). -/

namespace Sys2Proof.Machine

/-- Both instructions complete, and what either does is to enter its response (R34). -/
theorem exec_eq_respond (i : Instr) (s : State) : exec i s = .next (respond (response i) s) := by
  cases i with
  | enc v => rfl
  | dec len ch =>
    simp only [exec, execDec, response, decResponse]
    cases decodeLabel len ch <;> rfl

/-- What the ports of one cycle without reset add to the pipe. -/
def PortIn.entry (p : PortIn) : Option RspWord := if p.reqValid then some (transact p.req) else none

/-- The input ports of the next `k` cycles, idle where none are listed (assumption 3). -/
def nextCycles : Nat → List PortIn → List PortIn
  | 0, _ => []
  | k + 1, ports => ports.headD PortIn.idle :: nextCycles k ports.tail

@[simp] theorem nextCycles_length (k : Nat) (ports : List PortIn) : (nextCycles k ports).length = k := by
  induction k generalizing ports with
  | zero => rfl
  | succ k ih => simp [nextCycles, ih]

theorem nextCycles_nil (k : Nat) : nextCycles k [] = List.replicate k PortIn.idle := by
  induction k with
  | zero => rfl
  | succ k ih => simp [nextCycles, ih, List.replicate_succ]

/-- The cycles listed and `k` more are those listed and then `k` idle ones. -/
theorem nextCycles_past_end (k : Nat) (ports : List PortIn) :
    nextCycles (ports.length + k) ports = ports ++ List.replicate k PortIn.idle := by
  induction ports with
  | nil => simp [nextCycles_nil]
  | cons p ps ih => simp [Nat.add_right_comm, nextCycles, ih]

theorem requestsOf_append (ps qs : List PortIn) : requestsOf (ps ++ qs) = requestsOf ps ++ requestsOf qs := by
  simp [requestsOf]

theorem requestsOf_cons (p : PortIn) (ps : List PortIn) : requestsOf (p :: ps) = requestsOf [p] ++ requestsOf ps :=
  requestsOf_append [p] ps

@[simp] theorem requestsOf_replicate_idle (k : Nat) : requestsOf (List.replicate k PortIn.idle) = [] := by
  simp [requestsOf, PortIn.idle]

/-- Cycles that each present a request present those requests. -/
@[simp] theorem requestsOf_map_request (ws : List ReqWord) : requestsOf (ws.map PortIn.request) = ws := by
  induction ws with
  | nil => rfl
  | cons w ws ih => simpa [requestsOf, PortIn.request] using ih

/-- The responses that a list of cycles adds to the pipe answer the requests presented in it, in order. -/
theorem filterMap_entry (ports : List PortIn) :
    (ports.map PortIn.entry).filterMap id = (requestsOf ports).map transact := by
  induction ports with
  | nil => rfl
  | cons p ps ih =>
    rw [List.map_cons, List.filterMap_cons, ih, requestsOf_cons, List.map_append]
    cases h : p.reqValid <;> simp [requestsOf, PortIn.entry, h]

/-- The ports of a cycle without reset are taken and the request they present, if any, is recorded. -/
def beginCycle (s : State) : State := { takePorts s with accepted := s.accepted ++ requestsOf [nextPorts s] }

@[simp] theorem beginCycle_inputs (s : State) : (beginCycle s).inputs = s.inputs.tail := rfl
@[simp] theorem beginCycle_pipe (s : State) : (beginCycle s).pipe = s.pipe := rfl
@[simp] theorem beginCycle_accepted (s : State) :
    (beginCycle s).accepted = s.accepted ++ requestsOf [nextPorts s] := rfl
@[simp] theorem beginCycle_delivered (s : State) : (beginCycle s).delivered = s.delivered := rfl

/-- A cycle without reset is a clock edge that enters what its ports add (R35). -/
theorem step_of_no_reset (s : State) (h : (nextPorts s).rst = false) :
    step s = .next (clock (nextPorts s).entry (beginCycle s)) := by
  rcases step_cases s with ⟨hr, -⟩ | ⟨-, hv, hs⟩ | ⟨-, hv, hs⟩
  · simp [h] at hr
  · rw [hs, exec_eq_respond]
    simp [PortIn.entry, beginCycle, requestsOf, hv, respond, transact, accept]
  · simp [hs, PortIn.entry, beginCycle, requestsOf, hv, takePorts]

/-- After `k` cycles without reset the pipe holds what stood `k` places on in the old pipe followed by the entries of
those cycles, and what it has passed is delivered (R35). -/
theorem run_of_no_reset (k : Nat) (s : State) (h : ∀ p ∈ nextCycles k s.inputs, p.rst = false) :
    ∃ t, run k s = .next t ∧ t.inputs = s.inputs.drop k ∧
      t.pipe = (s.pipe ++ (nextCycles k s.inputs).map PortIn.entry).drop k ∧
      t.delivered = s.delivered ++ ((s.pipe ++ (nextCycles k s.inputs).map PortIn.entry).take k).filterMap id ∧
      t.accepted = s.accepted ++ requestsOf (nextCycles k s.inputs) := by
  induction k generalizing s with
  | zero => exact ⟨s, by simp [nextCycles, requestsOf]⟩
  | succ k ih =>
    obtain ⟨h0, hrest⟩ := List.forall_mem_cons.mp h
    obtain ⟨t, hrun, hin, hpipe, hdel, hacc⟩ := ih (clock (nextPorts s).entry (beginCycle s)) hrest
    have window : s.pipe ++ (nextCycles (k + 1) s.inputs).map PortIn.entry =
        (shiftIn s.pipe (nextPorts s).entry).1 :: ((shiftIn s.pipe (nextPorts s).entry).2 ++
          (nextCycles k s.inputs.tail).map PortIn.entry) := by
      rw [← List.cons_append, shiftIn_cons_eq]
      simp [nextCycles, nextPorts]
    refine ⟨t, ?_, ?_, ?_, ?_, ?_⟩
    · rw [run_succ, step_of_no_reset s h0]
      exact hrun
    · simpa using hin
    · rw [window]
      simpa using hpipe
    · rw [window, hdel]
      cases hdue : (shiftIn s.pipe (nextPorts s).entry).1 <;> simp [hdue]
    · rw [hacc, nextCycles, requestsOf_cons]
      simp [nextPorts]

/-- Once the cycles listed, none of them a reset, and LATENCY more are over, every request is answered in order behind
what was in flight, and nothing is left in flight (R30, R35). -/
theorem run_until_drained (s : State) (h : ∀ p ∈ s.inputs, p.rst = false) :
    ∃ t, run (s.inputs.length + s.latency) s = .next t ∧
      t.delivered = s.delivered ++ inFlight s ++ (requestsOf s.inputs).map transact ∧
      t.accepted = s.accepted ++ requestsOf s.inputs ∧
      t.pipe = List.replicate s.latency none ∧ t.inputs = [] := by
  have cycles := nextCycles_past_end s.latency s.inputs
  obtain ⟨t, hrun, hin, hpipe, hdel, hacc⟩ := run_of_no_reset (s.inputs.length + s.latency) s (by
    rw [cycles]
    intro p hp
    rcases List.mem_append.mp hp with hp | hp
    · exact h p hp
    · rw [List.eq_of_mem_replicate hp]
      rfl)
  have entries : s.pipe ++ (nextCycles (s.inputs.length + s.latency) s.inputs).map PortIn.entry =
      (s.pipe ++ s.inputs.map PortIn.entry) ++ List.replicate s.latency none := by
    simp [cycles, PortIn.entry, PortIn.idle]
  have passed : (s.pipe ++ s.inputs.map PortIn.entry).length = s.inputs.length + s.latency := by
    simp [State.latency, Nat.add_comm]
  refine ⟨t, hrun, ?_, ?_, ?_, ?_⟩
  · rw [hdel, entries, List.take_left' passed, List.filterMap_append, filterMap_entry, List.append_assoc]
    rfl
  · simp [hacc, cycles, requestsOf_append]
  · rw [hpipe, entries, List.drop_left' passed]
  · rw [hin, List.drop_eq_nil_of_le (Nat.le_add_right ..)]

/-- Right after reset, presenting the requests `ws` one a cycle delivers their responses, in order. -/
theorem run_requests_after_reset (latency : Nat) (ws : List ReqWord) :
    ∃ t, run (ws.length + latency) { State.resetWith latency with inputs := ws.map PortIn.request } = .next t ∧
      t.delivered = ws.map transact := by
  obtain ⟨t, hrun, hdel, -⟩ := run_until_drained
    { State.resetWith latency with inputs := ws.map PortIn.request } (by simp [PortIn.request])
  exact ⟨t, by simpa [State.latency] using hrun, by simpa [inFlight] using hdel⟩

end Sys2Proof.Machine
end

section
/-! PROOFS. The composer's operations on the clocked machine. -/

namespace Sys2Proof.Composer

open Sys2Proof.Machine

/-- `encode` succeeds with the labels of one ENC for each value, in order (R62). -/
theorem encode_ok {vs : List Value} {x : Identifier} (h : (encode vs).result = .ok x) :
    (encode vs).requests = vs.map encRequest ∧ x.labels = vs.map encLabel := by
  cases vs with
  | nil => simp [encode] at h
  | cons v vs =>
    simp only [encode, List.isEmpty_cons, Bool.false_eq_true, if_false, HostResult.ok.injEq] at h
    exact ⟨rfl, by rw [← h]⟩

/-- A mapped result is a success where the result is one. -/
theorem mapResult_eq_ok {α β : Type} {f : α → β} {r : HostResult α} {b : β} :
    mapResult f r = .ok b ↔ ∃ a, r = .ok a ∧ f a = b := by
  cases r <;> simp [mapResult]

/-- Where `decodeAll` succeeds, every label was presented and every one decoded (R72, R73). -/
theorem decodeAll_ok {ls : List Label} {vs : List Value} (h : (decodeAll ls).result = .ok vs) :
    (decodeAll ls).requests = ls.map decRequest ∧ ls.map decLabel = vs.map .ok := by
  induction ls generalizing vs with
  | nil => cases h; exact ⟨rfl, rfl⟩
  | cons l ls ih =>
    cases hl : decLabel l with
    | error e => simp [decodeAll, hl] at h
    | ok v =>
      simp only [decodeAll, hl, mapResult_eq_ok] at h ⊢
      obtain ⟨ws, hws, rfl⟩ := h
      obtain ⟨hreq, hlab⟩ := ih hws
      simp [hreq, hlab, hl]

/-- `to_values` succeeds where every label was presented and decoded. -/
theorem toValues_ok {x : Identifier} {vs : List Value} (h : (toValues x).result = .ok vs) :
    (toValues x).requests = x.labels.map decRequest ∧ x.labels.map decLabel = vs.map .ok := by
  cases hx : x.labels.isEmpty with
  | true => simp [toValues, hx] at h
  | false =>
    simp only [toValues, hx, Bool.false_eq_true, if_false] at h ⊢
    exact decodeAll_ok h

/-- Settles O54: the run delivers the responses to the requests in order (`run_requests_after_reset`), and these are the
transactions the composer's result was read from. -/
theorem composerRunsOnTheMachine : Obligations.ComposerRunsOnTheMachine := by
  refine ⟨fun latency vs x h => ?_, fun latency x vs h => ?_⟩
  · obtain ⟨hreq, hlab⟩ := encode_ok h
    obtain ⟨t, hrun, hdel⟩ := run_requests_after_reset latency (encode vs).requests
    refine ⟨t, by simpa [hreq] using hrun, ?_⟩
    rw [hdel, hreq, hlab, List.map_map, List.map_map]
    rfl
  · obtain ⟨hreq, hval⟩ := toValues_ok h
    obtain ⟨t, hrun, hdel⟩ := run_requests_after_reset latency (toValues x).requests
    refine ⟨t, by simpa [hreq] using hrun, ?_⟩
    rw [hdel, hreq, ← hval, List.map_map, List.map_map]
    rfl

end Sys2Proof.Composer
end

section
/-! PROOFS. Decoding inverts encoding, field by field (R36 to R38, R42). -/

namespace Sys2Proof.Machine

/-- The packed label in its five bytes (R42). -/
theorem pack_toNat (l : Label) : (pack l).toNat =
    (((l.c0.toNat * 2 ^ 8 + l.c1.toNat) * 2 ^ 8 + l.c2.toNat) * 2 ^ 8 + l.c3.toNat) * 2 ^ 8 + l.c4.toNat := by
  simp only [pack, append_toNat_add]

/-- Unpacking reads back the five characters. -/
@[simp] theorem unpack_pack (l : Label) : unpack (pack l) = l := by
  obtain ⟨c0, c1, c2, c3, c4⟩ := l
  have := c0.isLt
  have := c1.isLt
  have := c2.isLt
  have := c3.isLt
  have := c4.isLt
  simp only [unpack, Label.mk.injEq, ← BitVec.toNat_inj, slice_toNat, pack_toNat]
  omega

@[simp] theorem reqOp_encode_enc (v : Value) : reqOp (encode (.enc v)) = false := by
  have := v.isLt
  rw [reqOp_eq_decide, encode_enc_toNat, decide_eq_false_iff_not]
  omega

@[simp] theorem reqValue_encode_enc (v : Value) : reqValue (encode (.enc v)) = v := by
  apply BitVec.eq_of_toNat_eq
  rw [reqValue, slice_toNat, encode_enc_toNat]
  omega

@[simp] theorem reqOp_encode_dec (len : LenField) (ch : Label) : reqOp (encode (.dec len ch)) = true := by
  have := len.isLt
  have := (pack ch).isLt
  rw [reqOp_eq_decide, encode_dec_toNat, decide_eq_true_iff]
  omega

@[simp] theorem reqLen_encode_dec (len : LenField) (ch : Label) : reqLen (encode (.dec len ch)) = len := by
  have := len.isLt
  have := (pack ch).isLt
  apply BitVec.eq_of_toNat_eq
  rw [reqLen, slice_toNat, encode_dec_toNat]
  omega

@[simp] theorem reqPayload_encode_dec (len : LenField) (ch : Label) :
    reqPayload (encode (.dec len ch)) = pack ch := by
  have := (pack ch).isLt
  apply BitVec.eq_of_toNat_eq
  rw [reqPayload, slice_toNat, encode_dec_toNat]
  omega

/-- The decoder reads every instruction back from its word (R44). -/
@[simp] theorem decode_encode (i : Instr) : decode (encode i) = i := by
  cases i <;> simp [decode]

/-- The transaction of an instruction's word yields the instruction's response (R34). -/
@[simp] theorem transact_encode (i : Instr) : transact (encode i) = response i := by
  rw [transact, decode_encode]

end Sys2Proof.Machine
end

section
/-! PROOFS. The state of the block: what an operation changes, the word presented next, and the machine right after
reset (10_state.md). -/

namespace Sys2Proof.Machine

@[simp] theorem shiftIn_nil (e : Option RspWord) : shiftIn [] e = (e, []) := rfl

@[simp] theorem shiftIn_cons (due : Option RspWord) (rest : List (Option RspWord)) (e : Option RspWord) :
    shiftIn (due :: rest) e = (due, rest ++ [e]) := rfl

/-- Where nothing is in flight and nothing enters, nothing is due and nothing is in flight after. -/
@[simp] theorem shiftIn_replicate_none (n : Nat) :
    shiftIn (List.replicate n none) none = (none, List.replicate n none) := by
  cases n with
  | zero => rfl
  | succ n => rw [List.replicate_succ, shiftIn_cons, ← List.replicate_succ', List.replicate_succ]

/-- With LATENCY 0 a response is presented in the cycle of its request (R35). -/
theorem respond_of_latency_zero (r : RspWord) {s : State} (h : s.pipe = []) :
    (respond r s).rspValid = true ∧ (respond r s).rsp = r ∧ (respond r s).delivered = s.delivered ++ [r] := by
  simp [respond, h]

/-- With a longer LATENCY a response joins the far end of the pipe, and the oldest entry is presented (R35). -/
theorem respond_of_pipe_cons (r : RspWord) {s : State} {due : Option RspWord} {rest : List (Option RspWord)}
    (h : s.pipe = due :: rest) :
    (respond r s).pipe = rest ++ [some r] ∧ (respond r s).rspValid = due.isSome ∧
      (respond r s).rsp = due.getD 0 ∧ (respond r s).delivered = s.delivered ++ due.toList := by
  simp [respond, h]

/-- Settles O27: both instructions enter the response of their word (`exec_eq_respond`), and a response is a clock edge
that moves the pipe and the outputs alone. -/
theorem operationCompletesAndChangesNothingElse : Obligations.OperationCompletesAndChangesNothingElse := by
  refine ⟨fun i s => ?_, fun r s => ⟨rfl, rfl, shiftIn_length _ _, ?_, ?_⟩⟩
  · rw [exec_eq_respond, transact_encode]
  · exact respond_of_latency_zero r
  · exact fun _ _ => respond_of_pipe_cons r

/-- A property that every step keeps while it answers next holds after any number of cycles. -/
theorem run_keeps {P : State → Prop} (hstep : ∀ s, P s → ∃ t, step s = .next t ∧ P t) (k : Nat) {s : State}
    (hs : P s) : ∃ t, run k s = .next t ∧ P t := by
  induction k generalizing s with
  | zero => exact ⟨s, run_zero s, hs⟩
  | succ k ih =>
    obtain ⟨u, hu, hPu⟩ := hstep s hs
    rw [run_succ, hu]
    exact ih hPu

/-- A machine of a given LATENCY with no request listed, nothing in flight and nothing presented. -/
structure Quiet (latency : Nat) (s : State) : Prop where
  noRequest : ∀ p ∈ s.inputs, p.reqValid = false
  pipe : s.pipe = List.replicate latency none
  rspValid : s.rspValid = false
  rsp : s.rsp = 0

/-- No request is presented next where none is listed: an exhausted list reads as idle (assumption 3). -/
theorem nextPorts_of_no_request {s : State} (h : ∀ p ∈ s.inputs, p.reqValid = false) :
    (nextPorts s).reqValid = false := by
  cases hin : s.inputs with
  | nil => simp [nextPorts, hin, PortIn.idle]
  | cons p ps => simpa [nextPorts, hin] using h p (by simp [hin])

/-- A quiet machine stays quiet, in a cycle of reset as in an idle one (R35, R92). -/
theorem step_keeps_quiet (latency : Nat) (s : State) (h : Quiet latency s) :
    ∃ t, step s = .next t ∧ Quiet latency t := by
  have rest : ∀ p ∈ s.inputs.tail, p.reqValid = false := fun p hp => h.noRequest p (List.mem_of_mem_tail hp)
  rcases step_cases s with ⟨-, hs⟩ | ⟨-, hv, -⟩ | ⟨-, -, hs⟩
  · exact ⟨_, hs, rest, by simp [State.latency, h.pipe], rfl, rfl⟩
  · simp [nextPorts_of_no_request h.noRequest] at hv
  · exact ⟨_, hs, rest, by simp [h.pipe], by simp [h.pipe], by simp [h.pipe]⟩

/-- Settles O30: the machine right after reset is quiet, and every cycle without a request keeps it so. -/
theorem noResponseBeforeTheFirstRequest : Obligations.NoResponseBeforeTheFirstRequest := by
  intro latency k quiet hquiet
  have start : Quiet latency { State.resetWith latency with inputs := quiet } := ⟨hquiet, rfl, rfl, rfl⟩
  obtain ⟨t, hrun, ht⟩ := run_keeps (step_keeps_quiet latency) k start
  have empty : ∀ e ∈ List.replicate latency (none : Option RspWord), e = none := fun _ => List.eq_of_mem_replicate
  refine ⟨?_, empty, t, hrun, ?_, ht.pipe ▸ empty, ht.rspValid, ht.rsp⟩
  · simp [State.latency]
  · simp [State.latency, ht.pipe]

/-- A request presented without reset is accepted and run (R34, R44). -/
theorem step_of_request {s : State} (hr : (nextPorts s).rst = false) (hv : (nextPorts s).reqValid = true) :
    step s = exec (decode (nextPorts s).req) (accept (nextPorts s).req (takePorts s)) := by
  simp [step, hr, hv]

/-- The next ports after a word is placed present that word, cut to `nbits` bits (assumption 6). -/
@[simp] theorem nextPorts_withFetchWord (s : State) (nbits w : Nat) :
    nextPorts (s.withFetchWord nbits w) = PortIn.request (BitVec.ofNat 44 (w % 2 ^ nbits)) := rfl

/-- Settles O26: the placed word is the request of the next cycle, and a word that fits in `nbits` bits is not cut. -/
theorem placedWordIsRunNext : Obligations.PlacedWordIsRunNext := by
  intro s nbits w hfits _
  rw [step_of_request rfl rfl, nextPorts_withFetchWord, Nat.mod_eq_of_lt hfits]
  rfl

/-- Nothing was accepted, delivered or in flight right after reset, so the invariant of the channel holds (R22, R93). -/
theorem channelInv_resetWith (latency : Nat) : ChannelInv (State.resetWith latency) := by
  have inOrder : InOrder (State.resetWith latency) := by simp [InOrder, inFlight]
  have outputsAgree : OutputsAgree (State.resetWith latency) := by simp [OutputsAgree]
  exact ⟨inOrder, outputsAgree⟩

/-- Settles O34: `State.reset` is the machine of one LATENCY right after reset. -/
theorem channelInvariantHoldsAfterReset : Obligations.ChannelInvariantHoldsAfterReset :=
  ⟨channelInv_resetWith Config.resetLatency, channelInv_resetWith⟩

end Sys2Proof.Machine
end

section
/-! PROOFS. The channel keeps its invariant in every cycle, so its n-th response answers its n-th request and every
request is answered in order (20_memory.md). -/

namespace Sys2Proof.Machine

/-- The response a cycle enters is the one to the request it accepts; where it accepts none it enters none. -/
theorem entry_toList (p : PortIn) : p.entry.toList = (requestsOf [p]).map transact := by
  cases h : p.reqValid <;> simp [PortIn.entry, requestsOf, h]

/-- A clock edge always leaves the outputs agreeing with what it presents (R35). -/
theorem outputsAgree_clock (e : Option RspWord) (s : State) : OutputsAgree (clock e s) := by
  cases hdue : (shiftIn s.pipe e).1 <;> simp [OutputsAgree, hdue]

/-- A clock edge that enters the responses to the requests newly recorded keeps the order (R30). -/
theorem inOrder_clock_beginCycle {s : State} (h : InOrder s) :
    InOrder (clock (nextPorts s).entry (beginCycle s)) := by
  have before : (beginCycle s).delivered ++ inFlight (beginCycle s) = s.accepted.map transact := h
  unfold InOrder
  rw [clock_keeps_responses, before, entry_toList, clock_accepted, beginCycle_accepted, List.map_append]

/-- A step with `rst` 1 is a cycle of reset, whatever else is presented (R92). -/
theorem step_of_reset {s : State} (h : (nextPorts s).rst = true) : step s = .next (resetCycle (takePorts s)) := by
  simp [step, h]

/-- A cycle of reset leaves the channel as it is right after reset, whatever the host lists to come (R92). -/
theorem channelInv_resetCycle (s : State) : ChannelInv (resetCycle s) :=
  channelInv_resetWith s.latency

/-- Every state that meets the invariant of the channel takes a step to one that meets it. -/
theorem step_keeps_channelInv (s : State) (h : ChannelInv s) : ∃ t, step s = .next t ∧ ChannelInv t := by
  obtain ⟨inOrder, -⟩ := h
  cases hr : (nextPorts s).rst with
  | true => exact ⟨_, step_of_reset hr, channelInv_resetCycle (takePorts s)⟩
  | false => exact ⟨_, step_of_no_reset s hr, inOrder_clock_beginCycle inOrder, outputsAgree_clock _ _⟩

/-- Settles O33: the step is the one of `step_keeps_channelInv`. -/
theorem stepKeepsTheChannelInvariant : Obligations.StepKeepsTheChannelInvariant := by
  intro s t h hst
  obtain ⟨u, hsu, hu⟩ := step_keeps_channelInv s h
  obtain rfl : u = t := by simpa [hsu] using hst
  exact hu

/-- Where the order is kept, no more responses than requests were presented. -/
theorem InOrder.delivered_length_le {s : State} (h : InOrder s) : s.delivered.length ≤ s.accepted.length := by
  have lengths := congrArg List.length h
  simp only [List.length_append, List.length_map] at lengths
  omega

/-- Where the order is kept, each response presented is the one to the request accepted at its place (R30). -/
theorem InOrder.answers_request {s : State} (h : InOrder s) {n : Nat} {r : RspWord}
    (hr : s.delivered[n]? = some r) : ∃ w, s.accepted[n]? = some w ∧ r = transact w := by
  obtain ⟨hn, -⟩ := List.getElem?_eq_some_iff.mp hr
  have answer : (s.accepted.map transact)[n]? = some r := by rw [← h, List.getElem?_append_left hn, hr]
  rw [List.getElem?_map, Option.map_eq_some_iff] at answer
  obtain ⟨w, hw, hwr⟩ := answer
  exact ⟨w, hw, hwr.symm⟩

/-- Settles O36: the invariant of the channel holds right after reset and is kept in every cycle, with reset or
without. -/
theorem nthResponseAnswersNthRequest : Obligations.NthResponseAnswersNthRequest := by
  intro latency k ports
  have start : ChannelInv { State.resetWith latency with inputs := ports } := channelInv_resetWith latency
  obtain ⟨t, hrun, inOrder, -⟩ := run_keeps step_keeps_channelInv k start
  exact ⟨t, hrun, inOrder.delivered_length_le, fun _ _ => inOrder.answers_request⟩

/-- Settles O37: the window of the pipe has moved past everything listed (`run_until_drained`). -/
theorem everyRequestIsAnsweredInOrder : Obligations.EveryRequestIsAnsweredInOrder :=
  run_until_drained

end Sys2Proof.Machine
end

section
/-! PROOFS. The words the composer makes of octets (R27, R68). -/

namespace Sys2Proof.Composer

open Sys2Proof.Machine

/-- Two octets side by side are the first shifted to the high byte with the second in the low one (R27). -/
theorem octets_append_eq_shift_or (hi lo : BitVec 8) :
    (hi ++ lo : BitVec (8 + 8)) = hi.setWidth 16 <<< 8 ||| lo.setWidth 16 := by
  rw [BitVec.append_def, BitVec.shiftLeftZeroExtend_eq, BitVec.setWidth'_eq]

/-- The two words of four octets are those of the big-endian number the octets make (R66, R68). -/
theorem wordsIpv4_eq_words32 (o0 o1 o2 o3 : BitVec 8) :
    wordsIpv4 o0 o1 o2 o3 = words32 (o0 ++ o1 ++ o2 ++ o3) := by
  have := o0.isLt
  have := o1.isLt
  have := o2.isLt
  have := o3.isLt
  simp only [wordsIpv4, words32, List.cons.injEq, ← BitVec.toNat_inj, slice_toNat, append_toNat_add, and_true]
  omega

/-- Settles O44: the words of the octets, written by shift and or, and as the words of the 32-bit number. -/
theorem encodeIpv4PacksOctetsInOrder : Obligations.EncodeIpv4PacksOctetsInOrder := by
  intro o0 o1 o2 o3
  refine ⟨?_, ?_⟩
  · rw [encodeIpv4, wordsIpv4, octets_append_eq_shift_or, octets_append_eq_shift_or]
  · rw [encodeIpv4, wordsIpv4_eq_words32, encodeWide]

end Sys2Proof.Composer
end

section
/-! PROOFS. The request word and its decoder: the fields of a word, what each operation decodes to, and encoding what
was decoded (30_encoding.md R36 to R45). -/

namespace Sys2Proof.Machine

/-- Settles O8, by the inverse law `decode_encode`. -/
theorem decodeOfEncodeIsTheInstruction : Obligations.DecodeOfEncodeIsTheInstruction :=
  decode_encode

/-- The numbers of the five unpacked characters (R42). -/
theorem unpack_toNat (p : Packed) :
    (unpack p).c0.toNat = p.toNat / 2 ^ 32 ∧ (unpack p).c1.toNat = p.toNat / 2 ^ 24 % 256 ∧
      (unpack p).c2.toNat = p.toNat / 2 ^ 16 % 256 ∧ (unpack p).c3.toNat = p.toNat / 2 ^ 8 % 256 ∧
      (unpack p).c4.toNat = p.toNat % 256 := by
  have := p.isLt
  simp only [unpack, slice_toNat]
  omega

/-- Packing the unpacked characters gives the 40 bits back. -/
@[simp] theorem pack_unpack (p : Packed) : pack (unpack p) = p := by
  obtain ⟨h0, h1, h2, h3, h4⟩ := unpack_toNat p
  apply BitVec.eq_of_toNat_eq
  rw [pack_toNat, h0, h1, h2, h3, h4]
  omega

/-- Settles O6: the number of a packed label in its bytes, and the two inverse laws. -/
theorem packingPlacesEachCharacter : Obligations.PackingPlacesEachCharacter := by
  refine ⟨fun l => ⟨rfl, ?_, unpack_pack l⟩, fun p => ?_⟩
  · rw [pack_toNat]
    omega
  · obtain ⟨h0, h1, h2, h3, h4⟩ := unpack_toNat p
    exact ⟨h0, h1, h2, h3, h4, pack_unpack p⟩

/-- A word with `REQ[43]` 0 is an ENC of its value field (R44). -/
theorem decode_of_reqOp_false {w : ReqWord} (h : reqOp w = false) : decode w = .enc (reqValue w) := by
  simp [decode, h]

/-- A word with `REQ[43]` 1 is a DEC of its length and character fields (R44). -/
theorem decode_of_reqOp_true {w : ReqWord} (h : reqOp w = true) :
    decode w = .dec (reqLen w) (unpack (reqPayload w)) := by
  simp [decode, h]

theorem decode_is_enc_iff (w : ReqWord) : (∃ v, decode w = .enc v) ↔ reqOp w = false := by
  cases h : reqOp w <;> simp [decode, h]

theorem decode_is_dec_iff (w : ReqWord) : (∃ len ch, decode w = .dec len ch) ↔ reqOp w = true := by
  cases h : reqOp w <;> simp [decode, h]

/-- The opcode table's mask keeps `REQ[43]` alone (R44). -/
theorem and_opcode_mask (w : ReqWord) :
    w &&& 0x80000000000#44 = if reqOp w then 0x80000000000#44 else 0x00000000000#44 :=
  BitVec.and_twoPow w 43

theorem reqValue_eq_ofNat (w : ReqWord) : reqValue w = BitVec.ofNat 16 (w.toNat % 2 ^ 16) := by
  apply BitVec.eq_of_toNat_eq
  rw [reqValue, slice_toNat, BitVec.toNat_ofNat]
  omega

theorem reqLen_eq_ofNat (w : ReqWord) : reqLen w = BitVec.ofNat 3 (w.toNat / 2 ^ 40 % 8) := by
  apply BitVec.eq_of_toNat_eq
  rw [reqLen, slice_toNat, BitVec.toNat_ofNat]
  omega

/-- The five characters of a word, by division and remainder (R44). -/
theorem unpack_reqPayload_eq_ofNat (w : ReqWord) : unpack (reqPayload w) =
    ⟨BitVec.ofNat 8 (w.toNat / 2 ^ 32 % 256), BitVec.ofNat 8 (w.toNat / 2 ^ 24 % 256),
     BitVec.ofNat 8 (w.toNat / 2 ^ 16 % 256), BitVec.ofNat 8 (w.toNat / 2 ^ 8 % 256),
     BitVec.ofNat 8 (w.toNat % 256)⟩ := by
  simp only [unpack, reqPayload, Label.mk.injEq, ← BitVec.toNat_inj, slice_toNat, BitVec.toNat_ofNat]
  omega

/-- Settles O7: each field by division and remainder, and the masked word by `REQ[43]`. -/
theorem decoderReadsTheFields : Obligations.DecoderReadsTheFields := by
  refine ⟨fun w h => ?_, fun w h => ?_, fun w => ?_⟩
  · rw [decode_of_reqOp_false (by rw [reqOp_eq_decide, h]; rfl), reqValue_eq_ofNat]
  · rw [decode_of_reqOp_true (by rw [reqOp_eq_decide, h]; rfl), reqLen_eq_ofNat, unpack_reqPayload_eq_ofNat]
  · rw [decode_is_enc_iff, decode_is_dec_iff, and_opcode_mask]
    cases reqOp w <;> simp

/-- A DEC word is its length and payload under `REQ[43]` (R36). -/
theorem toNat_of_reqOp_true {w : ReqWord} (h : reqOp w = true) :
    w.toNat = (8 + (reqLen w).toNat) * 2 ^ 40 + (reqPayload w).toNat := by
  rw [reqOp_eq_decide, decide_eq_true_iff] at h
  rw [reqLen, reqPayload, slice_toNat, slice_toNat]
  omega

/-- Settles O9: a DEC word is made of its decoded fields, and the canonical ENC word keeps the value alone. -/
theorem encodeOfDecodeClearsIgnoredBits : Obligations.EncodeOfDecodeClearsIgnoredBits := by
  refine fun w => ⟨fun h => ?_, fun h => ?_⟩
  · apply BitVec.eq_of_toNat_eq
    rw [decode_of_reqOp_true h, encode_dec_toNat, pack_unpack, toNat_of_reqOp_true h]
  · have low : (w &&& 0xFFFF#44).toNat = w.toNat % 2 ^ 16 := Nat.and_two_pow_sub_one_eq_mod w.toNat 16
    apply BitVec.eq_of_toNat_eq
    rw [decode_of_reqOp_false h, encode_enc_toNat, reqValue, slice_toNat, low]
    omega

/-- Settles O10: the decoder evaluated on the four words. -/
theorem writtenWordsDecode : Obligations.WrittenWordsDecode := by
  refine ⟨?_, ?_, ?_, ?_⟩ <;> decide

/-- A number of 44 bits is the request of that word (R36). -/
theorem decodeNat_of_lt {w : Nat} (h : w < 2 ^ 44) : decodeNat w = .ok (decode (BitVec.ofNat 44 w)) :=
  if_pos h

/-- A wider number is no request (assumption 11). -/
theorem decodeNat_of_le {w : Nat} (h : 2 ^ 44 ≤ w) : decodeNat w = .error .widerThanRequest :=
  if_neg (Nat.not_lt.mpr h)

/-- Settles O11: a number of `nbits` bits reaches the decoder uncut. -/
theorem tableWordsGoThroughTheDecoder : Obligations.TableWordsGoThroughTheDecoder := by
  intro nbits w hfits
  refine ⟨fun h => ?_, fun h => ?_⟩
  · rw [decodeTableWord, Nat.mod_eq_of_lt hfits, decodeNat_of_lt h]
  · rw [decodeTableWord, Nat.mod_eq_of_lt hfits, decodeNat_of_le h]

/-- A label's five bytes fill the five slots. -/
@[simp] theorem leftJustify_labelText (l : Label) : leftJustify (labelText l) = l := rfl

/-- Three characters leave the last two slots 0x00 (R45). -/
theorem leftJustify_three (a b c : CharCode) : leftJustify [a, b, c] = ⟨a, b, c, 0x00#8, 0x00#8⟩ := rfl

/-- Settles O13: the numbers of the two request words, with five and with three characters in the slots. -/
theorem writtenLinesAssemble : Obligations.WrittenLinesAssemble := by
  refine ⟨encode_enc_toNat, encode_dec_toNat 5#3, fun n l => ?_, fun n a b c => ?_⟩
  · rw [assemble, leftJustify_labelText, encode_dec_toNat]
  · rw [assemble, leftJustify_three, encode_dec_toNat, pack_toNat]
    simp only [BitVec.toNat_ofNat]
    omega

end Sys2Proof.Machine
end

section
/-! PROOFS. The response word: the word of each outcome, what it is read as, and what a request's ignored bits leave
unchanged (30_encoding.md R38 to R43). -/

namespace Sys2Proof.Machine

/-- A DEC of another length than 5 is `InvalidLabelLength`, whatever its characters (R56). -/
theorem decodeLabel_of_len_ne {len : LenField} (h : len ≠ 5#3) (ch : Label) :
    decodeLabel len ch = .error .invalidLabelLength :=
  if_pos fun h5 => h (BitVec.eq_of_toNat_eq h5)

theorem transact_of_reqOp_false {w : ReqWord} (h : reqOp w = false) : transact w = encResponse (reqValue w) := by
  rw [transact, decode_of_reqOp_false h, response]

theorem transact_of_reqOp_true {w : ReqWord} (h : reqOp w = true) :
    transact w = decResponse (reqLen w) (unpack (reqPayload w)) := by
  rw [transact, decode_of_reqOp_true h, response]

/-- A DEC word with another length than 5 is answered by the length error (R43, R56). -/
theorem transact_of_len_ne {w : ReqWord} (h : reqOp w = true) (hlen : reqLen w ≠ 5#3) :
    transact w = errorRsp .invalidLabelLength := by
  rw [transact_of_reqOp_true h, decResponse, decodeLabel_of_len_ne hlen, resultRsp]

/-- The value of a word is its low 16 bits (R37). -/
theorem reqValue_eq_setWidth (w : ReqWord) : reqValue w = w.setWidth 16 :=
  (BitVec.setWidth_eq_extractLsb' (by decide)).symm

/-- Settles O12: the response is read from the value of an ENC word, and is the length error of a DEC word whose length
is not 5. -/
theorem everyRequestWordIsLegal : Obligations.EveryRequestWordIsLegal := by
  refine ⟨fun w s => ⟨_, exec_eq_respond (decode w) s⟩, fun w₁ w₂ h₁ h₂ hv => ?_, fun w₁ w₂ h₁ h₂ hne hlen => ?_,
    fun w h hne => ?_⟩
  · rw [transact_of_reqOp_false h₁, transact_of_reqOp_false h₂, reqValue_eq_setWidth, reqValue_eq_setWidth, hv]
  · rw [transact_of_len_ne h₁ hne, transact_of_len_ne h₂ (hlen ▸ hne)]
  · rw [transact_of_len_ne h hne, errorRsp, rspStatus_rspWord, errorStatus]

/-- A response with status OK is the number of its result (R41). -/
theorem rspWord_ok_eq_ofNat (r : Packed) : rspWord .ok 0x00 r = BitVec.ofNat 50 r.toNat := by
  have fits : r.toNat % 2 ^ 50 = r.toNat := Nat.mod_eq_of_lt (r.isLt.trans (by decide))
  apply BitVec.eq_of_toNat_eq
  rw [rspWord_toNat, BitVec.toNat_ofNat, fits]
  simp [statusCode]

/-- The response to an ENC is the packed label (R41). -/
theorem labelRsp_eq_ofNat (l : Label) : labelRsp l = BitVec.ofNat 50 (pack l).toNat :=
  rspWord_ok_eq_ofNat (pack l)

/-- The response to a DEC that succeeds is the number of the value (R41). -/
theorem valueRsp_eq_ofNat (v : Value) : valueRsp v = BitVec.ofNat 50 v.toNat := by
  rw [valueRsp, rspWord_ok_eq_ofNat, BitVec.toNat_setWidth_of_le (by decide)]

/-- A DEC enters the response word of what the label decodes to. -/
theorem exec_dec_eq_respond (len : LenField) (ch : Label) (s : State) :
    exec (.dec len ch) s = .next (respond (resultRsp (decodeLabel len ch)) s) :=
  exec_eq_respond (.dec len ch) s

/-- Settles O14: each instruction enters the response word of its outcome, written out. -/
theorem responseWordOfEachOutcome : Obligations.ResponseWordOfEachOutcome := by
  refine ⟨fun v s => ?_, fun len ch v s h => ?_, fun len ch s h => ?_, fun len ch c s h => ?_, fun len ch c s h => ?_⟩
  · rw [exec_eq_respond, response, encResponse, labelRsp_eq_ofNat]
  · rw [exec_dec_eq_respond, h, resultRsp, valueRsp_eq_ofNat]
  all_goals
    rw [exec_dec_eq_respond, h]
    rfl

/-- The two responses are told apart by their status. -/
theorem errorRsp_ne_valueRsp (e : DecError) (v : Value) : errorRsp e ≠ valueRsp v := by
  intro h
  have status : errorStatus e = .ok := by
    simpa only [errorRsp, valueRsp, rspStatus_rspWord] using congrArg rspStatus h
  cases e <;> cases status

/-- Read with `status` first, a response to a DEC is its outcome (R98). -/
@[simp] theorem readValue_resultRsp (r : Except DecError Value) : readValue (resultRsp r) = r := by
  cases r with
  | ok v => simp [resultRsp, readValue, valueRsp, rspStatus_rspWord, rspResult_rspWord]
  | error e => cases e <;> simp [resultRsp, readValue, errorRsp, errorStatus, errorChar, rspStatus_rspWord,
      rspErrChar_rspWord]

/-- The response to an ENC is read as its label. -/
@[simp] theorem readLabel_labelRsp (l : Label) : readLabel (labelRsp l) = l := by
  rw [readLabel, labelRsp, rspResult_rspWord, unpack_pack]

/-- Settles O16: a response word is read back field by field, and an error differs from the value 0 in its status. -/
theorem readingStatusFirstRecoversTheOutcome : Obligations.ReadingStatusFirstRecoversTheOutcome := by
  refine ⟨readValue_resultRsp, readLabel_labelRsp, fun e => ⟨?_, errorRsp_ne_valueRsp e 0⟩⟩
  rw [errorRsp, valueRsp, rspResult_rspWord, rspResult_rspWord]
  rfl

/-- A request whose response has the given status: ENC 0, a DEC of length 0, and a DEC of five characters with the first
offending character at position 0 or at position 1. -/
def requestWithStatus : Status → ReqWord
  | .ok => encode (.enc 0)
  | .invalidLabelLength => encode (.dec 0 ⟨0, 0, 0, 0, 0⟩)
  | .invalidConsonant => encode (.dec 5 ⟨0, 0, 0, 0, 0⟩)
  | .invalidVowel => encode (.dec 5 ⟨cons 0, 0, 0, 0, 0⟩)

/-- Settles O15: an ENC answers under status OK, and `requestWithStatus` draws each code. -/
theorem statusCodesAreAllUsed : Obligations.StatusCodesAreAllUsed := by
  have drawn : ∀ b, (transact (requestWithStatus (statusOfCode b))).extractLsb' 48 2 = b := by decide
  refine ⟨⟨rfl, rfl, rfl, rfl⟩, statusOfCode_statusCode, fun v => ?_, fun b => ⟨_, drawn b⟩⟩
  rw [transact_encode, response, encResponse, labelRsp, rspStatus_rspWord]

end Sys2Proof.Machine

namespace Sys2Proof.Composer

open Sys2Proof.Machine

/-- A segment is decoded by its length, capped at 7, and the characters that have a slot (R38, assumption 10). -/
theorem decSegment_eq_decodeLabel (t : Text) :
    decSegment t = decodeLabel (segmentLen t.length) (leftJustify t) := by
  rw [decSegment, segmentRequest, assemble, transact_encode, response, decResponse, readValue_resultRsp]

/-- Only a segment of five characters is presented with `len` 5 (R38). -/
theorem segmentLen_ne_five {n : Nat} (h : n ≠ 5) : segmentLen n ≠ 5#3 := by
  intro h5
  have lengths := congrArg BitVec.toNat h5
  simp only [segmentLen, BitVec.toNat_ofNat] at lengths
  omega

/-- Settles O50: the length presented decides, and five characters fill the slots. -/
theorem segmentOfAnyLengthIsDecoded : Obligations.SegmentOfAnyLengthIsDecoded := by
  refine ⟨fun t h => ?_, fun l => ?_⟩
  · rw [decSegment_eq_decodeLabel, decodeLabel_of_len_ne (segmentLen_ne_five h)]
  · rw [decSegment_eq_decodeLabel, leftJustify_labelText]
    rfl

end Sys2Proof.Composer
end

section
/-! PROOFS. The channel in time: a cycle with and without a request, and when a response is presented (30_encoding.md
R35). -/

namespace Sys2Proof.Machine

/-- Settles O25: the next ports are those of the first listed cycle (`step_of_request`). -/
theorem stepRunsTheDecodedRequest : Obligations.StepRunsTheDecodedRequest := by
  intro s p rest hin hrst hvalid
  have next : nextPorts s = p := by rw [nextPorts, hin, List.headD_cons]
  have tail : s.inputs.tail = rest := by rw [hin, List.tail_cons]
  rw [step_of_request (next ▸ hrst) (next ▸ hvalid), next, takePorts, tail]
  rfl

/-- A step without reset and without a request moves the transactions in flight (R35). -/
theorem step_of_idle {s : State} (hr : (nextPorts s).rst = false) (hv : (nextPorts s).reqValid = false) :
    step s = .next (clock none (takePorts s)) := by
  simp [step, hr, hv]

/-- Settles O28: the step is a clock edge that enters nothing, read for each head of the pipe. -/
theorem idleCycleMovesThePipe : Obligations.IdleCycleMovesThePipe := by
  intro s q rest hin
  have next : nextPorts s = ⟨false, false, q⟩ := by rw [nextPorts, hin, List.headD_cons]
  refine ⟨_, step_of_idle (by rw [next]) (by rw [next]), ?_, rfl, fun h => ?_, fun later h => ?_, fun r later h => ?_⟩
  · rw [clock_inputs, takePorts_inputs, hin, List.tail_cons]
  all_goals simp [h]

/-- Settles O31: a step with reset reads no request, and an idle step reads no request word. -/
theorem ignoredPortsChangeNothing : Obligations.IgnoredPortsChangeNothing := by
  intro s rest v₁ v₂ q₁ q₂
  refine ⟨?_, ?_⟩
  · rw [step_of_reset rfl, step_of_reset rfl]
    rfl
  · rw [step_of_idle rfl rfl, step_of_idle rfl rfl]
    rfl

/-- Every step answers next, takes the ports of one cycle and keeps LATENCY (R35, R43). -/
theorem step_next_takes_one_cycle (s : State) :
    ∃ t, step s = .next t ∧ t.latency = s.latency ∧ t.inputs = s.inputs.tail := by
  cases hr : (nextPorts s).rst with
  | true => exact ⟨_, step_of_reset hr, by simp [State.latency], rfl⟩
  | false => exact ⟨_, step_of_no_reset s hr, by simp [State.latency], rfl⟩

/-- Settles O32: every step answers next (`step_next_takes_one_cycle`), so every run does, by induction on
its length. -/
theorem theBlockNeverStops : Obligations.TheBlockNeverStops := by
  intro k
  induction k with
  | zero => exact fun s => ⟨s, run_zero s, rfl, rfl⟩
  | succ k ih =>
    intro s
    obtain ⟨u, hstep, hlatency, hinputs⟩ := step_next_takes_one_cycle s
    obtain ⟨t, hrun, htlatency, htinputs⟩ := ih u
    refine ⟨t, ?_, htlatency.trans hlatency, ?_⟩
    · rw [run_succ, hstep]
      exact hrun
    · rw [htinputs, hinputs, List.drop_tail]

/-- Of what is in flight and then one entry for each of the next `k + 1` cycles, the next cycle presents the first and
the cycles after it see the rest (R35). -/
theorem pipe_append_entries (k : Nat) (s : State) :
    s.pipe ++ (nextCycles (k + 1) s.inputs).map PortIn.entry =
      (shiftIn s.pipe (nextPorts s).entry).1 ::
        ((shiftIn s.pipe (nextPorts s).entry).2 ++ (nextCycles k s.inputs.tail).map PortIn.entry) := by
  rw [← List.cons_append, shiftIn_cons_eq, nextCycles, nextPorts, List.map_cons, List.append_assoc,
    List.singleton_append]

/-- The outputs after `k + 1` cycles without reset show entry `k` of what was in flight and then one entry for each
cycle (R35). -/
theorem run_presents_entry (k : Nat) (s : State) {e : Option RspWord}
    (h : ∀ p ∈ nextCycles (k + 1) s.inputs, p.rst = false)
    (he : (s.pipe ++ (nextCycles (k + 1) s.inputs).map PortIn.entry)[k]? = some e) :
    ∃ t, run (k + 1) s = .next t ∧ t.rspValid = e.isSome ∧ t.rsp = e.getD 0 := by
  induction k generalizing s with
  | zero =>
    obtain ⟨h0, -⟩ := List.forall_mem_cons.mp h
    rw [pipe_append_entries, List.getElem?_cons_zero, Option.some_inj] at he
    rw [run_succ, step_of_no_reset s h0]
    exact ⟨_, rfl, by rw [clock_rspValid, beginCycle_pipe, he], by rw [clock_rsp, beginCycle_pipe, he]⟩
  | succ k ih =>
    obtain ⟨h0, hrest⟩ := List.forall_mem_cons.mp h
    rw [pipe_append_entries, List.getElem?_cons_succ] at he
    rw [run_succ, step_of_no_reset s h0]
    exact ih (clock (nextPorts s).entry (beginCycle s)) hrest he

/-- The next `k` cycles are free of reset where the first `k` listed are: the others are idle (assumption 3). -/
theorem nextCycles_no_reset (k : Nat) (ports : List PortIn) (h : ∀ p ∈ ports.take k, p.rst = false) :
    ∀ p ∈ nextCycles k ports, p.rst = false := by
  induction k generalizing ports with
  | zero => simp [nextCycles]
  | succ k ih =>
    cases ports with
    | nil => simp [nextCycles_nil, PortIn.idle]
    | cons p ps =>
      obtain ⟨h0, hrest⟩ := List.forall_mem_cons.mp h
      exact List.forall_mem_cons.mpr ⟨h0, ih ps hrest⟩

/-- Settles O35: the entry of the request stands LATENCY places on (`run_presents_entry`). -/
theorem responseComesLatencyCyclesLater : Obligations.ResponseComesLatencyCyclesLater := by
  intro s w rest hin h
  have free : ∀ p ∈ nextCycles (s.latency + 1) s.inputs, p.rst = false := by
    refine nextCycles_no_reset _ _ ?_
    rw [hin, List.take_succ_cons]
    exact List.forall_mem_cons.mpr ⟨rfl, h⟩
  have entry : (s.pipe ++ (nextCycles (s.latency + 1) s.inputs).map PortIn.entry)[s.latency]? =
      some (some (transact w)) := by
    simp [State.latency, hin, nextCycles, PortIn.entry, PortIn.request]
  exact run_presents_entry s.latency s free entry

end Sys2Proof.Machine
end

section
/-! PROOFS. The Alphabet Tables (40_alphabet_tables.md): each lookup is the partial inverse of its table, and what
follows from that (R48 to R52). -/

namespace Sys2Proof.Machine

/-- An index found by searching a ROM is one of its addresses and holds the character searched for. -/
theorem get_of_findIdx? {n k : Nat} {rom : Vector CharCode n} {c : CharCode}
    (h : rom.toList.findIdx? (· == c) = some k) : ∃ hk : k < n, rom.get ⟨k, hk⟩ = c := by
  obtain ⟨hk, hc, -⟩ := List.findIdx?_eq_some_iff_getElem.mp h
  exact ⟨by simpa using hk, by simpa [Vector.get_eq_getElem] using hc⟩

@[simp] theorem consonantValue_cons (i : ConsIndex) : consonantValue (cons i) = .ok i := by revert i; decide

@[simp] theorem vowelValue_vow (i : VowIndex) : vowelValue (vow i) = .ok i := by revert i; decide

/-- The lookup of a consonant answers an index that holds the character, or the error that carries it. -/
theorem consonantValue_cases (c : CharCode) :
    (∃ i, consonantValue c = .ok i ∧ cons i = c) ∨ consonantValue c = .error (.invalidConsonant c) := by
  unfold consonantValue
  split
  case h_1 k hfind =>
    obtain ⟨hk, hc⟩ := get_of_findIdx? hfind
    have address : (BitVec.ofNat 4 k).toFin = ⟨k, hk⟩ := Fin.ext (Nat.mod_eq_of_lt hk)
    exact .inl ⟨_, rfl, by rw [cons, address, hc]⟩
  case h_2 => exact .inr rfl

/-- The same for a vowel. -/
theorem vowelValue_cases (c : CharCode) :
    (∃ i, vowelValue c = .ok i ∧ vow i = c) ∨ vowelValue c = .error (.invalidVowel c) := by
  unfold vowelValue
  split
  case h_1 k hfind =>
    obtain ⟨hk, hc⟩ := get_of_findIdx? hfind
    have address : (BitVec.ofNat 2 k).toFin = ⟨k, hk⟩ := Fin.ext (Nat.mod_eq_of_lt hk)
    exact .inl ⟨_, rfl, by rw [vow, address, hc]⟩
  case h_2 => exact .inr rfl

theorem consonantValue_eq_ok_iff (c : CharCode) (i : ConsIndex) : consonantValue c = .ok i ↔ cons i = c := by
  constructor
  · intro h
    obtain ⟨j, hj, hc⟩ | he := consonantValue_cases c
    · cases hj.symm.trans h
      exact hc
    · cases he.symm.trans h
  · rintro rfl
    exact consonantValue_cons i

theorem vowelValue_eq_ok_iff (c : CharCode) (i : VowIndex) : vowelValue c = .ok i ↔ vow i = c := by
  constructor
  · intro h
    obtain ⟨j, hj, hc⟩ | he := vowelValue_cases c
    · cases hj.symm.trans h
      exact hc
    · cases he.symm.trans h
  · rintro rfl
    exact vowelValue_vow i

theorem consonantValue_of_not_cons {c : CharCode} (h : ∀ i, cons i ≠ c) :
    consonantValue c = .error (.invalidConsonant c) :=
  (consonantValue_cases c).resolve_left fun ⟨i, _, hc⟩ => h i hc

theorem vowelValue_of_not_vow {c : CharCode} (h : ∀ i, vow i ≠ c) : vowelValue c = .error (.invalidVowel c) :=
  (vowelValue_cases c).resolve_left fun ⟨i, _, hc⟩ => h i hc

/-- A table with an inverse lookup is injective. -/
theorem cons_injective : Function.Injective cons := fun i j h =>
  Except.ok.inj (ε := DecError) <| by rw [← consonantValue_cons i, h, consonantValue_cons]

theorem vow_injective : Function.Injective vow := fun i j h =>
  Except.ok.inj (ε := DecError) <| by rw [← vowelValue_vow i, h, vowelValue_vow]

theorem cons_ne_vow : ∀ i j, cons i ≠ vow j := by decide

/-- Settles O1: a character that both lookups accept would be in both tables. -/
theorem tablesAreInjectiveAndDisjoint : Obligations.TablesAreInjectiveAndDisjoint := by
  refine ⟨cons_injective, vow_injective, cons_ne_vow, ?_⟩
  rintro c i j ⟨hi, hj⟩
  rw [consonantValue_eq_ok_iff] at hi
  rw [vowelValue_eq_ok_iff] at hj
  exact cons_ne_vow i j (hi.trans hj.symm)

/-- Settles O2: each lookup answers an index exactly where its table holds the character. -/
theorem lookupsInvertTheTables : Obligations.LookupsInvertTheTables :=
  ⟨consonantValue_cons, vowelValue_vow, fun c i => (consonantValue_eq_ok_iff c i).mp,
    fun c i => (vowelValue_eq_ok_iff c i).mp⟩

/-- Settles O3: the same equivalence, and the error where the table holds the character at no index. -/
theorem lookupsReturnIndexOrCarryCharacter : Obligations.LookupsReturnIndexOrCarryCharacter :=
  ⟨fun c i => (consonantValue_eq_ok_iff c i).mpr, fun _ => consonantValue_of_not_cons,
    fun c i => (vowelValue_eq_ok_iff c i).mpr, fun _ => vowelValue_of_not_vow⟩

theorem isConsonant_iff (c : CharCode) : isConsonant c = true ↔ ∃ i, cons i = c := by
  simp only [isConsonant_iff_lookup, consonantValue_eq_ok_iff]

theorem isVowel_iff (c : CharCode) : isVowel c = true ↔ ∃ i, vow i = c := by
  simp only [isVowel_iff_lookup, vowelValue_eq_ok_iff]

/-- Every index of a table gives a character of its own, so both tables together hold 16 + 4 characters. -/
theorem card_alphabets : (Finset.univ.image cons ∪ Finset.univ.image vow).card = 20 := by
  have disjoint : Disjoint (Finset.univ.image cons) (Finset.univ.image vow) := by
    simp [Finset.disjoint_left, cons_ne_vow, eq_comm]
  rw [Finset.card_union_of_disjoint disjoint, Finset.card_image_of_injective _ cons_injective,
    Finset.card_image_of_injective _ vow_injective]
  rfl

/-- The numbers below 256 and the bytes are counted alike. -/
theorem length_filter_bytes (p : CharCode → Bool) :
    ((List.range 256).filter fun n => p (BitVec.ofNat 8 n)).length = (Finset.univ.filter fun c => p c = true).card := by
  rw [← List.toFinset_card_of_nodup (List.nodup_range.filter _)]
  apply Finset.card_nbij' (BitVec.ofNat 8) BitVec.toNat
  · intro n hn
    simpa using (List.mem_filter.mp (List.mem_toFinset.mp hn)).2
  · intro c hc
    simpa [c.isLt] using hc
  · intro n hn
    exact Nat.mod_eq_of_lt (List.mem_range.mp (List.mem_filter.mp (List.mem_toFinset.mp hn)).1)
  · intro c _
    simp

/-- R51: all 256 bytes but the characters of the tables. -/
theorem card_outside_alphabets :
    (Finset.univ.filter fun c => (!isConsonant c && !isVowel c) = true).card = 236 := by
  have outside : (Finset.univ.filter fun c => (!isConsonant c && !isVowel c) = true) =
      (Finset.univ.image cons ∪ Finset.univ.image vow)ᶜ := by
    ext c
    simp [← Bool.not_eq_true, isConsonant_iff, isVowel_iff]
  rw [outside, Finset.card_compl, card_alphabets, ← FinEnum.card_eq_fintypeCard, FinEnum.card_bitVec]
  rfl

/-- Settles O4: a byte in a table is one of the listed ones, and the list of R51 names no byte outside it. -/
theorem everyByteIsClassified : Obligations.EveryByteIsClassified := by
  refine ⟨fun c => ?_, fun c => ?_,
    (length_filter_bytes fun c => !isConsonant c && !isVowel c).trans card_outside_alphabets⟩
  · obtain ⟨i, rfl⟩ | outside := em (∃ i, cons i = c)
    · rw [consonantValue_cons]
      revert i
      decide
    · have unlisted : ∀ i, (cons i).toNat ≠ c.toNat := fun i h => outside ⟨i, BitVec.eq_of_toNat_eq h⟩
      rw [consonantValue_of_not_cons fun i h => outside ⟨i, h⟩]
      split
      case h_17 => rfl
      all_goals
        next listed =>
          rw [listed] at unlisted
          exact absurd unlisted (by decide)
  · obtain ⟨i, rfl⟩ | outside := em (∃ i, vow i = c)
    · rw [vowelValue_vow]
      revert i
      decide
    · have unlisted : ∀ i, (vow i).toNat ≠ c.toNat := fun i h => outside ⟨i, BitVec.eq_of_toNat_eq h⟩
      rw [vowelValue_of_not_vow fun i h => outside ⟨i, h⟩]
      split
      case h_5 => rfl
      all_goals
        next listed =>
          rw [listed] at unlisted
          exact absurd unlisted (by decide)

end Sys2Proof.Machine
end

section
/-! PROOFS. The Label Codec: the fields of a value, the accumulator of DEC, and the bijection between the values and the
well-formed labels (41_label_codec.md). -/

namespace Sys2Proof.Machine

/-- A slice of a value is a shift and a mask (R54). -/
theorem setWidth_slice_eq_shift_and (v : Value) (lo : Nat) {len : Nat} (h : len ≤ 16) :
    (v.extractLsb' lo len).setWidth 16 = (v >>> lo) &&& BitVec.ofNat 16 (2 ^ len - 1) := by
  have mask : (2 ^ len - 1) % 2 ^ 16 = 2 ^ len - 1 :=
    Nat.mod_eq_of_lt (by have := Nat.pow_le_pow_right two_pos h; omega)
  apply BitVec.eq_of_toNat_eq
  rw [BitVec.toNat_setWidth_of_le h, slice_toNat, BitVec.toNat_and, BitVec.toNat_ofNat, mask,
    Nat.and_two_pow_sub_one_eq_mod, BitVec.toNat_ushiftRight, Nat.shiftRight_eq_div_pow]

/-- The number of five indices side by side, by the weights of R54. -/
theorem indices_toNat (i0 : ConsIndex) (i1 : VowIndex) (i2 : ConsIndex) (i3 : VowIndex) (i4 : ConsIndex) :
    (i0 ++ i1 ++ i2 ++ i3 ++ i4).toNat =
      i0.toNat * 4096 + i1.toNat * 1024 + i2.toNat * 64 + i3.toNat * 16 + i4.toNat := by
  simp only [append_toNat_add]
  omega

/-- The five fields side by side are the value (R54). -/
theorem fields_append (v : Value) : field0 v ++ field1 v ++ field2 v ++ field3 v ++ field4 v = v := by
  apply BitVec.eq_of_toNat_eq
  have := v.isLt
  simp only [indices_toNat, field0, field1, field2, field3, field4, slice_toNat]
  omega

/-- Settles O5: each field is a slice, and side by side the fields are the value (`fields_append`). -/
theorem fieldsPartitionTheValue : Obligations.FieldsPartitionTheValue := by
  refine fun v => ⟨setWidth_slice_eq_shift_and v 12 (by decide), setWidth_slice_eq_shift_and v 10 (by decide),
    setWidth_slice_eq_shift_and v 6 (by decide), setWidth_slice_eq_shift_and v 4 (by decide), ?_, ?_⟩
  · rw [field4, setWidth_slice_eq_shift_and v 0 (by decide), BitVec.ushiftRight_zero]
    rfl
  · rw [← indices_toNat, fields_append]

/-- ENC of five indices side by side spells each of them (R55). -/
theorem encodeU16_append (i0 : ConsIndex) (i1 : VowIndex) (i2 : ConsIndex) (i3 : VowIndex) (i4 : ConsIndex) :
    encodeU16 (i0 ++ i1 ++ i2 ++ i3 ++ i4) = ⟨cons i0, vow i1, cons i2, vow i3, cons i4⟩ := by
  have fields : field0 (i0 ++ i1 ++ i2 ++ i3 ++ i4) = i0 ∧ field1 (i0 ++ i1 ++ i2 ++ i3 ++ i4) = i1 ∧
      field2 (i0 ++ i1 ++ i2 ++ i3 ++ i4) = i2 ∧ field3 (i0 ++ i1 ++ i2 ++ i3 ++ i4) = i3 ∧
      field4 (i0 ++ i1 ++ i2 ++ i3 ++ i4) = i4 := by
    have := i0.isLt
    have := i1.isLt
    have := i2.isLt
    have := i3.isLt
    have := i4.isLt
    simp only [field0, field1, field2, field3, field4, ← BitVec.toNat_inj, slice_toNat, indices_toNat]
    omega
  obtain ⟨h0, h1, h2, h3, h4⟩ := fields
  rw [encodeU16, h0, h1, h2, h3, h4]

/-- The well-formed labels are those of five indices (R8). -/
theorem wellFormed_iff_indices (l : Label) :
    l.wellFormed = true ↔ ∃ i0 i1 i2 i3 i4, (⟨cons i0, vow i1, cons i2, vow i3, cons i4⟩ : Label) = l := by
  obtain ⟨c0, c1, c2, c3, c4⟩ := l
  simp only [Label.wellFormed, Bool.and_eq_true, isConsonant_iff, isVowel_iff, Label.mk.injEq]
  constructor
  · rintro ⟨⟨⟨⟨⟨i0, h0⟩, ⟨i1, h1⟩⟩, ⟨i2, h2⟩⟩, ⟨i3, h3⟩⟩, ⟨i4, h4⟩⟩
    exact ⟨i0, i1, i2, i3, i4, h0, h1, h2, h3, h4⟩
  · rintro ⟨i0, i1, i2, i3, i4, h0, h1, h2, h3, h4⟩
    exact ⟨⟨⟨⟨⟨i0, h0⟩, ⟨i1, h1⟩⟩, ⟨i2, h2⟩⟩, ⟨i3, h3⟩⟩, ⟨i4, h4⟩⟩

/-- The well-formed labels are those that ENC produces (R55, R59). -/
theorem wellFormed_iff_encodeU16 (l : Label) : l.wellFormed = true ↔ ∃ v, encodeU16 v = l := by
  rw [wellFormed_iff_indices]
  constructor
  · rintro ⟨i0, i1, i2, i3, i4, rfl⟩
    exact ⟨_, encodeU16_append i0 i1 i2 i3 i4⟩
  · rintro ⟨v, rfl⟩
    exact ⟨field0 v, field1 v, field2 v, field3 v, field4 v, rfl⟩

/-- Appending an index is an accumulator step: shift by the width of the index and add it (R56). -/
theorem setWidth_append_eq_shift_add {n k : Nat} (x : BitVec n) (i : BitVec k) :
    (x ++ i).setWidth 16 = (x.setWidth 16 <<< k) + i.setWidth 16 := by
  apply BitVec.eq_of_toNat_eq
  rw [BitVec.toNat_setWidth, append_toNat_add]
  simp [Nat.shiftLeft_eq, Nat.add_mod, Nat.mul_mod]

theorem accConsonant_eq_ok_iff (acc : Value) (c : CharCode) (a : Value) :
    accConsonant acc c = .ok a ↔ ∃ i, consonantValue c = .ok i ∧ (acc <<< 4) + i.setWidth 16 = a := by
  obtain ⟨i, hi, hacc⟩ | ⟨e, he, hacc⟩ := accConsonant_cases acc c
  · simp [hacc, hi]
  · simp [hacc, he]

theorem accVowel_eq_ok_iff (acc : Value) (c : CharCode) (a : Value) :
    accVowel acc c = .ok a ↔ ∃ i, vowelValue c = .ok i ∧ (acc <<< 2) + i.setWidth 16 = a := by
  obtain ⟨i, hi, hacc⟩ | ⟨e, he, hacc⟩ := accVowel_cases acc c
  · simp [hacc, hi]
  · simp [hacc, he]

/-- A consonant appends its index to the accumulator. -/
theorem accConsonant_cons {n : Nat} (x : BitVec n) (i : ConsIndex) :
    accConsonant (x.setWidth 16) (cons i) = .ok ((x ++ i).setWidth 16) :=
  (accConsonant_eq_ok_iff ..).mpr ⟨i, consonantValue_cons i, (setWidth_append_eq_shift_add x i).symm⟩

/-- A vowel appends its index to the accumulator. -/
theorem accVowel_vow {n : Nat} (x : BitVec n) (i : VowIndex) :
    accVowel (x.setWidth 16) (vow i) = .ok ((x ++ i).setWidth 16) :=
  (accVowel_eq_ok_iff ..).mpr ⟨i, vowelValue_vow i, (setWidth_append_eq_shift_add x i).symm⟩

/-- With `len` 5, DEC is its five positions from the left (R56). -/
theorem decodeLabel_five (ch : Label) : decodeLabel 5#3 ch = (do
    let acc ← accConsonant 0#16 ch.c0
    let acc ← accVowel acc ch.c1
    let acc ← accConsonant acc ch.c2
    let acc ← accVowel acc ch.c3
    accConsonant acc ch.c4) :=
  if_neg (not_not.mpr rfl)

/-- A sequence of two operations succeeds where both do. -/
theorem except_bind_eq_ok_iff {ε α β : Type} (x : Except ε α) (f : α → Except ε β) (b : β) :
    (x >>= f) = .ok b ↔ ∃ a, x = .ok a ∧ f a = .ok b := by
  cases x <;> simp [bind, Except.bind]

/-- A sequence of two operations ends in no error that neither ends in. -/
theorem except_bind_ne_error {ε α β : Type} {x : Except ε α} {f : α → Except ε β} {e : ε} (hx : x ≠ .error e)
    (hf : ∀ a, f a ≠ .error e) : (x >>= f) ≠ .error e := by
  cases x with
  | ok a => exact hf a
  | error d => exact fun h => hx (by cases h; rfl)

/-- DEC of five characters of the right alphabets ends with their indices side by side (R57). -/
theorem decodeLabel_of_indices (i0 : ConsIndex) (i1 : VowIndex) (i2 : ConsIndex) (i3 : VowIndex) (i4 : ConsIndex) :
    decodeLabel 5#3 ⟨cons i0, vow i1, cons i2, vow i3, cons i4⟩ = .ok (i0 ++ i1 ++ i2 ++ i3 ++ i4) := by
  have first : accConsonant 0#16 (cons i0) = .ok (i0.setWidth 16) :=
    (accConsonant_eq_ok_iff ..).mpr ⟨i0, consonantValue_cons i0, BitVec.zero_add _⟩
  rw [decodeLabel_five]
  simp [except_bind_eq_ok_iff, first, accVowel_vow, accConsonant_cons]

/-- DEC gives back the value ENC spelt (R58). -/
@[simp] theorem decodeLabel_encodeU16 (v : Value) : decodeLabel 5#3 (encodeU16 v) = .ok v :=
  (decodeLabel_of_indices ..).trans (congrArg Except.ok (fields_append v))

/-- A consonant position that succeeds holds a consonant. -/
theorem isConsonant_of_accConsonant_ok {acc a : Value} {c : CharCode} (h : accConsonant acc c = .ok a) :
    isConsonant c = true := by
  obtain ⟨i, hi, -⟩ := (accConsonant_eq_ok_iff ..).mp h
  exact (isConsonant_iff_lookup c).mpr ⟨i, hi⟩

/-- A vowel position that succeeds holds a vowel. -/
theorem isVowel_of_accVowel_ok {acc a : Value} {c : CharCode} (h : accVowel acc c = .ok a) : isVowel c = true := by
  obtain ⟨i, hi, -⟩ := (accVowel_eq_ok_iff ..).mp h
  exact (isVowel_iff_lookup c).mpr ⟨i, hi⟩

/-- Where DEC succeeds each of the five positions did, so the label is well formed (R56). -/
theorem wellFormed_of_decodeLabel_ok {ch : Label} {v : Value} (h : decodeLabel 5#3 ch = .ok v) :
    ch.wellFormed = true := by
  simp only [decodeLabel_five, except_bind_eq_ok_iff] at h
  obtain ⟨a0, h0, a1, h1, a2, h2, a3, h3, h4⟩ := h
  simp only [Label.wellFormed, isConsonant_of_accConsonant_ok h0, isVowel_of_accVowel_ok h1,
    isConsonant_of_accConsonant_ok h2, isVowel_of_accVowel_ok h3, isConsonant_of_accConsonant_ok h4, Bool.and_self]

/-- DEC with `len` 5 answers a value exactly on the label of that value (R58, R59). -/
theorem decodeLabel_eq_ok_iff (ch : Label) (v : Value) : decodeLabel 5#3 ch = .ok v ↔ encodeU16 v = ch := by
  constructor
  · intro h
    obtain ⟨w, rfl⟩ := (wellFormed_iff_encodeU16 ch).mp (wellFormed_of_decodeLabel_ok h)
    rw [decodeLabel_encodeU16, Except.ok.injEq] at h
    rw [h]
  · rintro rfl
    exact decodeLabel_encodeU16 v

/-- ENC has an inverse, so different values have different labels (R55). -/
theorem encodeU16_injective : Function.Injective encodeU16 := fun v w h =>
  Except.ok.inj (ε := DecError) <| by rw [← decodeLabel_encodeU16 v, h, decodeLabel_encodeU16]

/-- The response to an ENC, byte by byte from the top (R39, R41). -/
theorem labelRsp_eq_append (l : Label) :
    labelRsp l = 0#2 ++ 0#8 ++ l.c0 ++ l.c1 ++ l.c2 ++ l.c3 ++ l.c4 := by
  apply BitVec.eq_of_toNat_eq
  rw [labelRsp, rspWord_toNat, pack_toNat]
  simp only [append_toNat_add, statusCode, BitVec.ofNat_eq_ofNat, BitVec.toNat_ofNat]
  omega

/-- Settles O17: the response written out (`labelRsp_eq_append`), and the label by its two characterisations. -/
theorem encAnswersTheCharactersOfTheFields : Obligations.EncAnswersTheCharactersOfTheFields := by
  refine ⟨fun v s => ?_, fun w h => ?_, fun v => ?_, encodeU16_injective, by decide, by decide, by decide⟩
  · rw [exec_eq_respond, response, encResponse, labelRsp_eq_append]
    rfl
  · rw [decode_of_reqOp_false h, reqValue_eq_setWidth]
  · exact (wellFormed_iff_encodeU16 _).mpr ⟨v, rfl⟩

/-- The error of a consonant position is its lookup's, never the length error (R77). -/
theorem accConsonant_ne_invalidLabelLength (acc : Value) (c : CharCode) :
    accConsonant acc c ≠ .error .invalidLabelLength := by
  obtain ⟨i, -, hacc⟩ | ⟨e, he, hacc⟩ := accConsonant_cases acc c
  · simp [hacc]
  · obtain ⟨i, hi, -⟩ | hc := consonantValue_cases c
    · cases hi.symm.trans he
    · cases he.symm.trans hc
      simp [hacc]

/-- The same at a vowel position. -/
theorem accVowel_ne_invalidLabelLength (acc : Value) (c : CharCode) :
    accVowel acc c ≠ .error .invalidLabelLength := by
  obtain ⟨i, -, hacc⟩ | ⟨e, he, hacc⟩ := accVowel_cases acc c
  · simp [hacc]
  · obtain ⟨i, hi, -⟩ | hc := vowelValue_cases c
    · cases hi.symm.trans he
    · cases he.symm.trans hc
      simp [hacc]

/-- With `len` 5 no position of DEC raises the length error (R56). -/
theorem decodeLabel_five_ne_invalidLabelLength (ch : Label) :
    decodeLabel 5#3 ch ≠ .error .invalidLabelLength := by
  rw [decodeLabel_five]
  refine except_bind_ne_error (accConsonant_ne_invalidLabelLength _ _) fun _ => ?_
  refine except_bind_ne_error (accVowel_ne_invalidLabelLength _ _) fun _ => ?_
  refine except_bind_ne_error (accConsonant_ne_invalidLabelLength _ _) fun _ => ?_
  refine except_bind_ne_error (accVowel_ne_invalidLabelLength _ _) fun _ => ?_
  exact accConsonant_ne_invalidLabelLength _ _

/-- The status of a response to a DEC is the length error only where the outcome is (R40, R77). -/
theorem resultRsp_status_invalidLabelLength {r : Except DecError Value}
    (h : rspStatus (resultRsp r) = .invalidLabelLength) : r = .error .invalidLabelLength := by
  have read : readValue (resultRsp r) = .error .invalidLabelLength := by simp only [readValue, h]
  rw [← readValue_resultRsp r, read]

/-- Settles O18: the length is checked before any character, and no position raises its error. -/
theorem decAnswersInvalidLabelLengthExactlyOnOtherLengths :
    Obligations.DecAnswersInvalidLabelLengthExactlyOnOtherLengths := by
  refine ⟨fun len ch s hlen => ?_, fun ch h => ?_⟩
  · rw [exec_dec_eq_respond, decodeLabel_of_len_ne hlen]
    rfl
  · exact decodeLabel_five_ne_invalidLabelLength ch (resultRsp_status_invalidLabelLength h)

/-- Settles O19: the value is the number of the indices side by side (`decodeLabel_of_indices`). -/
theorem decOfWellFormedLabelAnswersItsValue : Obligations.DecOfWellFormedLabelAnswersItsValue := by
  intro i0 i2 i4 i1 i3 s
  rw [exec_dec_eq_respond, decodeLabel_of_indices, resultRsp, valueRsp_eq_ofNat, indices_toNat]

/-- The index added takes the bits the shift has cleared, so the sum has no carry (R57). -/
theorem shift_add_eq_or (acc : Value) {k : Nat} (i : BitVec k) :
    (acc <<< k) + i.setWidth 16 = (acc <<< k) ||| i.setWidth 16 := by
  apply BitVec.add_eq_or_of_and_eq_zero
  ext j hj
  by_cases h : j < k
  · simp [h]
  · simp [h, BitVec.getLsbD_of_ge i j (Nat.le_of_not_lt h)]

/-- The accumulator loses no bit where shift and index fit in its 16 bits (R57). -/
theorem shift_add_toNat {acc : Value} {k : Nat} {i : BitVec k} (h : acc.toNat * 2 ^ k + i.toNat < 2 ^ 16) :
    ((acc <<< k) + i.setWidth 16).toNat = acc.toNat * 2 ^ k + i.toNat := by
  have step := setWidth_append_eq_shift_add acc i
  rw [BitVec.setWidth_eq] at step
  rw [← step, BitVec.toNat_setWidth, append_toNat_add, Nat.mod_eq_of_lt h]

/-- Settles O21: a step adds an index below the shifted accumulator, and five steps append five indices. -/
theorem accumulatorNeverCarries : Obligations.AccumulatorNeverCarries := by
  refine ⟨fun acc c a h => ?_, fun acc c a h => ?_, decodeLabel_of_indices⟩
  · obtain ⟨i, hi, rfl⟩ := (accConsonant_eq_ok_iff ..).mp h
    exact ⟨i, hi, shift_add_eq_or acc i, fun hacc => shift_add_toNat (by have := i.isLt; omega)⟩
  · obtain ⟨i, hi, rfl⟩ := (accVowel_eq_ok_iff ..).mp h
    exact ⟨i, hi, shift_add_eq_or acc i, fun hacc => shift_add_toNat (by have := i.isLt; omega)⟩

/-- Settles O22: another length is an error, and with `len` 5 the labels that decode are those ENC produces. -/
theorem decSucceedsExactlyOnWellFormedLabels : Obligations.DecSucceedsExactlyOnWellFormedLabels := by
  intro len ch
  by_cases hlen : len = 5#3
  · subst hlen
    simp only [decodeLabel_eq_ok_iff, wellFormed_iff_encodeU16, true_and]
  · simp [decodeLabel_of_len_ne hlen, hlen]

/-- Settles O23: the label read from the response to ENC is `encodeU16 v`, which DEC takes back to `v`. -/
theorem valueRoundTrip : Obligations.ValueRoundTrip := by
  intro v
  have label : unpack (rspResult (labelRsp (encodeU16 v))) = encodeU16 v := readLabel_labelRsp _
  refine ⟨decodeLabel_encodeU16 v, ?_⟩
  rw [transact_encode, transact_encode, response, response, encResponse, label, decResponse, decodeLabel_encodeU16,
    resultRsp, valueRsp_eq_ofNat]

/-- Settles O24: DEC and ENC are inverse to each other (`decodeLabel_eq_ok_iff`), the well-formed labels being the range
of ENC. -/
theorem labelRoundTrip : Obligations.LabelRoundTrip := by
  refine ⟨fun l v => (decodeLabel_eq_ok_iff l v).mp, wellFormed_iff_encodeU16, encodeU16_injective,
    fun l₁ l₂ v h₁ h₂ => ?_⟩
  rw [decodeLabel_eq_ok_iff] at h₁ h₂
  exact h₁.symm.trans h₂

end Sys2Proof.Machine
end

section
/-! PROOFS. The composer's transactions, and its encoding side (42_identifier_composer.md R62 to R67, R76). -/

namespace Sys2Proof.Composer

open Sys2Proof.Machine

/-- The request of `ENC v` is its encoded word (R45). -/
@[simp] theorem encRequest_eq_encode (v : Value) : encRequest v = Sys2Proof.encode (.enc v) := rfl

/-- The request of `DEC(5, L)` is its encoded word (R45). -/
@[simp] theorem decRequest_eq_encode (l : Label) : decRequest l = Sys2Proof.encode (.dec 5#3 l) := rfl

/-- The label read from an ENC transaction is the label of the value (R55). -/
@[simp] theorem encLabel_eq_encodeU16 (v : Value) : encLabel v = encodeU16 v := by
  rw [encLabel, encRequest_eq_encode, transact_encode, response, encResponse, readLabel_labelRsp]

/-- The outcome read from a DEC transaction is the outcome of DEC (R56). -/
@[simp] theorem decLabel_eq_decodeLabel (l : Label) : decLabel l = decodeLabel 5#3 l := by
  rw [decLabel, decRequest_eq_encode, transact_encode, response, decResponse, readValue_resultRsp]

/-- Labels are well formed exactly where they are those of a sequence of values (R59). -/
theorem all_wellFormed_iff_map_encodeU16 (ls : List Label) :
    (∀ l ∈ ls, l.wellFormed = true) ↔ ∃ vs : List Value, vs.map encodeU16 = ls := by
  simp only [wellFormed_iff_encodeU16]
  exact (Set.ext_iff.mp (Set.range_list_map encodeU16) ls).symm

/-- An identifier has a label, and each is well formed (R61). -/
theorem wellFormed_iff (x : Identifier) :
    x.wellFormed = true ↔ x.labels ≠ [] ∧ ∀ l ∈ x.labels, l.wellFormed = true := by
  simp [Identifier.wellFormed]

theorem encode_of_ne_nil {vs : List Value} (h : vs ≠ []) :
    encode vs = ⟨vs.map fun v => Sys2Proof.encode (.enc v), .ok ⟨vs.map encodeU16⟩⟩ := by
  rw [encode, if_neg (by simpa using h)]
  simp

theorem append_of_ne_nil {x : Identifier} (h : x.labels ≠ []) (v : Value) :
    append x v = ⟨[Sys2Proof.encode (.enc v)], .ok ⟨x.labels ++ [encodeU16 v]⟩⟩ := by
  rw [append, if_neg (by simpa using h)]
  simp

/-- Settles O38: each label is read from the ENC transaction of its value. -/
theorem encodeIssuesOneEncForEachValue : Obligations.EncodeIssuesOneEncForEachValue :=
  fun _ h => encode_of_ne_nil h

/-- Settles O39: each operation checks for emptiness before anything else. -/
theorem emptyInputIsRefused : Obligations.EmptyInputIsRefused := ⟨rfl, rfl, rfl⟩

/-- Settles O41: the labels of a longer sequence end with that of its last value. -/
theorem appendAddsTheLabelLast : Obligations.AppendAddsTheLabelLast := by
  refine ⟨fun x v h => append_of_ne_nil h v, fun vs v h => ⟨⟨vs.map encodeU16⟩, ?_, ?_⟩⟩
  · rw [encode_of_ne_nil h]
  · rw [append_of_ne_nil (by simpa using h), encode_of_ne_nil (by simp), List.map_append (f := encodeU16)]
    rfl

/-- The words of a 32-bit value by shift and mask (R66). -/
theorem words32_eq_shift_mask (v : BitVec 32) :
    words32 v = [(v >>> 16).setWidth 16, (v &&& 0xFFFF#32).setWidth 16] := by
  have high : (v >>> 16).setWidth 16 = v.extractLsb' 16 16 := rfl
  have mask : (0xFFFF#32).setWidth 16 = BitVec.allOnes 16 := rfl
  have low : (v &&& 0xFFFF#32).setWidth 16 = v.extractLsb' 0 16 := by
    rw [BitVec.setWidth_and, mask, BitVec.and_allOnes, BitVec.setWidth_eq_extractLsb' (by decide)]
  rw [words32, high, low]

/-- The words of a 32-bit value as quotient and remainder (R66). -/
theorem words32_eq_ofNat (v : BitVec 32) :
    words32 v = [BitVec.ofNat 16 (v.toNat / 65536), BitVec.ofNat 16 (v.toNat % 65536)] := by
  simp only [words32, List.cons.injEq, ← BitVec.toNat_inj, slice_toNat, BitVec.toNat_ofNat, and_true]
  omega

/-- Settles O42: the two words by shift and mask, and as numbers. -/
theorem encodeWideSplitsMostSignificantFirst : Obligations.EncodeWideSplitsMostSignificantFirst := by
  intro v
  refine ⟨?_, ?_⟩
  · rw [encodeWide, words32_eq_shift_mask]
  · rw [encodeWide, words32_eq_ofNat, encode_of_ne_nil (by simp)]
    rfl

/-- The words of four words side by side are the four, the first the most significant (R67). -/
theorem words64_append (a b c d : Value) : words64 (a ++ b ++ c ++ d) = [a, b, c, d] := by
  have := a.isLt
  have := b.isLt
  have := c.isLt
  have := d.isLt
  simp only [words64, List.cons.injEq, ← BitVec.toNat_inj, slice_toNat, append_toNat_add, and_true]
  omega

/-- Settles O43: the 64-bit value is cut where the four words meet. -/
theorem encodeWide64SplitsMostSignificantFirst : Obligations.EncodeWide64SplitsMostSignificantFirst := by
  intro a b c d
  have split : encodeWide64 (a ++ b ++ c ++ d) = encode [a, b, c, d] := by rw [encodeWide64, words64_append]
  refine ⟨split, ?_⟩
  rw [split, encode_of_ne_nil (by simp)]
  rfl

end Sys2Proof.Composer
end

section
/-! PROOFS. Text: the labels joined by separators, and the segments of a text (42_identifier_composer.md R63, R64,
R69 to R71). -/

namespace Sys2Proof.Composer

open Sys2Proof.Machine

theorem toText_of_ne_nil {x : Identifier} (h : x.labels ≠ []) : toText x = .ok (joinLabels x.labels) := by
  rw [toText, if_neg (by simpa using h)]

theorem toText_eq_ok_iff (x : Identifier) (t : Text) :
    toText x = .ok t ↔ x.labels ≠ [] ∧ joinLabels x.labels = t := by
  by_cases h : x.labels = []
  · simp [toText, h]
  · simp [toText_of_ne_nil h, h]

@[simp] theorem labelText_length (l : Label) : (labelText l).length = 5 := rfl

theorem labelText_injective : Function.Injective labelText := by
  rintro ⟨_, _, _, _, _⟩ ⟨_, _, _, _, _⟩ h
  simpa [labelText] using h

/-- Every character of a well-formed label is a letter (R8). -/
theorem letter_of_wellFormed {l : Label} (h : l.wellFormed = true) {c : CharCode} (hc : c ∈ labelText l) :
    isConsonant c = true ∨ isVowel c = true := by
  simp only [Label.wellFormed, Bool.and_eq_true] at h
  obtain ⟨⟨⟨⟨h0, h1⟩, h2⟩, h3⟩, h4⟩ := h
  simp only [labelText, List.mem_cons, List.not_mem_nil, or_false] at hc
  rcases hc with rfl | rfl | rfl | rfl | rfl
  exacts [.inl h0, .inr h1, .inl h2, .inr h3, .inl h4]

/-- The separator cannot be mistaken for part of a well-formed label (R64). -/
theorem sep_notMem_labelText {l : Label} (h : l.wellFormed = true) : sep ∉ labelText l := by
  intro hc
  obtain ⟨notConsonant, notVowel⟩ := separator_in_neither_alphabet
  rcases letter_of_wellFormed h hc with hl | hl
  · exact absurd (hl.symm.trans notConsonant) (by simp)
  · exact absurd (hl.symm.trans notVowel) (by simp)

/-- Joining labels is joining their texts by one separator (R63). -/
theorem joinLabels_eq_intercalate (ls : List Label) : joinLabels ls = [sep].intercalate (ls.map labelText) := by
  induction ls with
  | nil => rfl
  | cons l ls ih =>
    cases ls with
    | nil => simp [joinLabels]
    | cons m ms => rw [joinLabels_cons l (m :: ms) (by simp), ih]; simp [List.intercalate_cons_cons]

/-- Canonical text has five bytes for each label and one between any two (R63). -/
theorem joinLabels_length {ls : List Label} (h : ls ≠ []) : (joinLabels ls).length + 1 = 6 * ls.length := by
  induction ls with
  | nil => exact absurd rfl h
  | cons l ls ih =>
    by_cases hls : ls = []
    · simp [hls, joinLabels]
    · have := ih hls
      simp only [joinLabels_cons l ls hls, List.length_append, labelText_length, List.length_cons]
      omega

/-- Where no label holds a separator, canonical text has one fewer than labels (R63). -/
theorem joinLabels_count_sep {ls : List Label} (h : ls ≠ []) (free : ∀ l ∈ ls, sep ∉ labelText l) :
    (joinLabels ls).count sep + 1 = ls.length := by
  induction ls with
  | nil => exact absurd rfl h
  | cons l ls ih =>
    obtain ⟨freeHead, freeTail⟩ := List.forall_mem_cons.mp free
    by_cases hls : ls = []
    · simp [hls, joinLabels, List.count_eq_zero.mpr freeHead]
    · simp [joinLabels_cons l ls hls, List.count_eq_zero.mpr freeHead, ih hls freeTail]

/-- A byte of canonical text is a separator or a character of a label (R63). -/
theorem mem_joinLabels {ls : List Label} {c : CharCode} (hc : c ∈ joinLabels ls) :
    c = sep ∨ ∃ l ∈ ls, c ∈ labelText l := by
  induction ls with
  | nil => simp [joinLabels] at hc
  | cons l ls ih =>
    by_cases hls : ls = []
    · exact .inr ⟨l, by simp, by simpa [hls, joinLabels] using hc⟩
    · rw [joinLabels_cons l ls hls, List.mem_append, List.mem_cons] at hc
      rcases hc with hc | hc | hc
      · exact .inr ⟨l, by simp, hc⟩
      · exact .inl hc
      · rcases ih hc with h | ⟨m, hm, hcm⟩
        · exact .inl h
        · exact .inr ⟨m, by simp [hm], hcm⟩

/-- From byte `6k` on, canonical text is that of the labels from label `k` on (R63). -/
theorem joinLabels_drop (ls : List Label) (k : Nat) : (joinLabels ls).drop (6 * k) = joinLabels (ls.drop k) := by
  induction k generalizing ls with
  | zero => rfl
  | succ k ih =>
    match ls with
    | [] => simp [joinLabels]
    | [l] => simp [joinLabels, labelText, Nat.mul_succ]
    | l :: m :: ms =>
      rw [joinLabels_cons l (m :: ms) (by simp), List.drop_succ_cons, ← ih, Nat.mul_succ, Nat.add_comm,
        ← List.drop_drop]
      rfl

/-- Canonical text begins with its first label (R63). -/
theorem joinLabels_take (l : Label) (ls : List Label) : (joinLabels (l :: ls)).take 5 = labelText l := by
  cases ls <;> rfl

/-- Settles O40: dropping `6k` bytes drops `k` labels, and letters are no separators. -/
theorem toTextJoinsLabelsBySingleSeparators : Obligations.ToTextJoinsLabelsBySingleSeparators := by
  intro x hx
  refine ⟨_, toText_of_ne_nil hx, joinLabels_length hx, fun k l hl => ?_, fun k hk => ?_,
    fun hwf => ⟨fun c hc => ?_, ?_⟩⟩
  · obtain ⟨hk, rfl⟩ := List.getElem?_eq_some_iff.mp hl
    rw [joinLabels_drop, List.drop_eq_getElem_cons hk, joinLabels_take]
  · rw [← List.getElem?_drop, joinLabels_drop, List.drop_eq_getElem_cons (Nat.lt_of_succ_lt hk),
      List.drop_eq_getElem_cons hk]
    rfl
  · obtain ⟨-, hwf⟩ := (wellFormed_iff x).mp hwf
    rcases mem_joinLabels hc with h | ⟨l, hl, hcl⟩
    · exact .inr (.inr h)
    · rcases letter_of_wellFormed (hwf l hl) hcl with h | h
      · exact .inl h
      · exact .inr (.inl h)
  · obtain ⟨-, hwf⟩ := (wellFormed_iff x).mp hwf
    exact joinLabels_count_sep hx fun l hl => sep_notMem_labelText (hwf l hl)

/-- Splitting at every separator is the library's split (R70). -/
theorem splitAtSep_eq_splitOn (t : Text) : splitAtSep t = t.splitOn sep := by
  induction t with
  | nil => rfl
  | cons c cs ih =>
    rw [splitAtSep, List.splitOn_cons_eq_if_modifyHead, ← ih]
    by_cases hc : c = sep
    · simp [hc]
    · cases h : splitAtSep cs with
      | nil => exact absurd h (splitAtSep_ne_nil cs)
      | cons seg segs => simp [hc]

theorem splitAtSep_length (t : Text) : (splitAtSep t).length = t.count sep + 1 := by
  rw [splitAtSep_eq_splitOn]
  induction t with
  | nil => rfl
  | cons c cs ih =>
    rw [List.splitOn_cons_eq_if_modifyHead, List.count_cons]
    split <;> simp [ih]

/-- No segment holds a separator (R70). -/
theorem sep_notMem_of_mem_splitAtSep (t : Text) : ∀ seg ∈ splitAtSep t, sep ∉ seg := by
  induction t with
  | nil => simp [splitAtSep]
  | cons c cs ih =>
    rw [splitAtSep]
    split
    · simpa using ih
    · next hc =>
      split
      · simpa using Ne.symm hc
      · next seg segs h =>
        rw [h, List.forall_mem_cons] at ih
        simpa [Ne.symm hc] using ih

/-- The segments of canonical text are its labels (R63, R70). -/
theorem splitAtSep_joinLabels {ls : List Label} (h : ls ≠ []) (free : ∀ l ∈ ls, sep ∉ labelText l) :
    splitAtSep (joinLabels ls) = ls.map labelText := by
  rw [splitAtSep_eq_splitOn, joinLabels_eq_intercalate,
    List.splitOn_intercalate sep (by simpa using free) (by simpa using h)]

/-- The groups of labels put together are the labels (R71). -/
theorem chunks_flatMap_labelText (ls : List Label) : chunks (ls.flatMap labelText) = ls.map labelText := by
  induction ls with
  | nil => rfl
  | cons l ls ih => simp [labelText, chunks, ← ih]

/-- Each group of a text whose length is a multiple of 5 has five characters (R71). -/
theorem length_of_mem_chunks : ∀ t : Text, t.length % 5 = 0 → ∀ seg ∈ chunks t, seg.length = 5
  | [], _ => by simp [chunks]
  | [_], h | [_, _], h | [_, _, _], h | [_, _, _, _], h => by simp at h
  | a :: b :: c :: d :: e :: rest, h => by
    have := length_of_mem_chunks rest ((Nat.add_mod_right rest.length 5).symm.trans h)
    simpa [chunks] using this

/-- Phase 1 succeeds with the labels that the segments are (R70). -/
theorem labelsOf_eq_ok_iff (segs : List Text) (ls : List Label) :
    labelsOf segs = .ok ls ↔ ls.map labelText = segs := by
  rcases labelsOf_cases segs with ⟨ms, hms, rfl⟩ | ⟨herr, seg, hseg, hlen⟩
  · rw [hms, Except.ok.injEq, labelText_injective.list_map.eq_iff, eq_comm]
  · rw [herr]
    refine ⟨fun h => (nomatch h), ?_⟩
    rintro rfl
    obtain ⟨l, -, rfl⟩ := List.mem_map.mp hseg
    exact absurd rfl hlen

/-- The length check has one error (R70). -/
theorem labelsOf_error {segs : List Text} {e : DecError} (h : labelsOf segs = .error e) : e = .invalidLabelLength := by
  rcases labelsOf_cases segs with ⟨ls, hok, -⟩ | ⟨hlen, -⟩
  · exact nomatch hok.symm.trans h
  · exact Except.error.inj (h.symm.trans hlen)

/-- A segment of another length than five fails the length check (R70). -/
theorem labelsOf_of_length_ne {segs : List Text} {seg : Text} (hseg : seg ∈ segs) (hlen : seg.length ≠ 5) :
    labelsOf segs = .error .invalidLabelLength := by
  rcases labelsOf_cases segs with ⟨ls, -, rfl⟩ | ⟨herr, -⟩
  · obtain ⟨l, -, rfl⟩ := List.mem_map.mp hseg
    exact absurd rfl hlen
  · exact herr

/-- Segments of five characters are labels (R70). -/
theorem labelsOf_of_length_eq {segs : List Text} (h : ∀ seg ∈ segs, seg.length = 5) :
    ∃ ls, labelsOf segs = .ok ls ∧ ls.map labelText = segs := by
  rcases labelsOf_cases segs with hok | ⟨-, seg, hseg, hlen⟩
  · exact hok
  · exact absurd (h seg hseg) hlen

theorem segments_of_sep_mem {t : Text} (h : sep ∈ t) : segments t = labelsOf (splitAtSep t) := by
  rw [segments, if_pos (by simpa using h), segmentsSep]

theorem segments_of_sep_notMem {t : Text} (h : sep ∉ t) (hlen : t.length % 5 = 0) :
    segments t = labelsOf (chunks t) := by
  rw [segments, if_neg (by simpa using h), segmentsChunk, if_neg (not_not.mpr hlen)]

theorem segments_of_length_mod_ne {t : Text} (h : sep ∉ t) (hlen : t.length % 5 ≠ 0) :
    segments t = .error .invalidLabelLength := by
  rw [segments, if_neg (by simpa using h), segmentsChunk, if_pos hlen]

/-- The one error of phase 1 (R72). -/
theorem segments_error {t : Text} {e : DecError} (h : segments t = .error e) : e = .invalidLabelLength := by
  by_cases hsep : sep ∈ t
  · exact labelsOf_error ((segments_of_sep_mem hsep).symm.trans h)
  · by_cases hlen : t.length % 5 = 0
    · exact labelsOf_error ((segments_of_sep_notMem hsep hlen).symm.trans h)
    · exact Except.error.inj (h.symm.trans (segments_of_length_mod_ne hsep hlen))

/-- What phase 1 accepts: labels joined by separators, cut where they stand, or labels put together without one (R69 to
R71). -/
theorem segments_eq_ok_iff (t : Text) (ls : List Label) :
    segments t = .ok ls ↔ (sep ∈ t ∧ ls.map labelText = splitAtSep t) ∨ (sep ∉ t ∧ ls.flatMap labelText = t) := by
  by_cases hsep : sep ∈ t
  · simp [segments_of_sep_mem hsep, hsep, labelsOf_eq_ok_iff]
  · simp only [hsep, false_and, not_false_eq_true, true_and, false_or]
    constructor
    · intro h
      by_cases hlen : t.length % 5 = 0
      · rw [segments_of_sep_notMem hsep hlen, labelsOf_eq_ok_iff] at h
        rw [← chunks_flatten t, ← h, List.flatMap_def]
      · exact nomatch h.symm.trans (segments_of_length_mod_ne hsep hlen)
    · rintro rfl
      have hlen : (ls.flatMap labelText).length % 5 = 0 := by simp
      rw [segments_of_sep_notMem hsep hlen, labelsOf_eq_ok_iff, chunks_flatMap_labelText]

/-- Phase 1 finds a label exactly in non-empty text. -/
theorem eq_nil_iff_of_segments_ok {t : Text} {ls : List Label} (h : segments t = .ok ls) : ls = [] ↔ t = [] := by
  constructor
  · rintro rfl
    rcases (segments_eq_ok_iff t []).mp h with ⟨-, hsplit⟩ | ⟨-, hflat⟩
    · exact absurd hsplit.symm (splitAtSep_ne_nil t)
    · exact hflat.symm
  · rintro rfl
    exact (Except.ok.inj h).symm

/-- Canonical text without a separator is that of one label (R63). -/
theorem eq_singleton_of_sep_notMem {ls : List Label} (h : ls ≠ []) (hsep : sep ∉ joinLabels ls) : ∃ l, ls = [l] := by
  match ls with
  | [] => exact absurd rfl h
  | [l] => exact ⟨l, rfl⟩
  | l :: m :: ms => exact absurd (by simp [joinLabels_cons]) hsep

/-- Phase 1 finds the labels of canonical text (R63, R70, R71). -/
theorem segments_joinLabels {ls : List Label} (h : ls ≠ []) (free : ∀ l ∈ ls, sep ∉ labelText l) :
    segments (joinLabels ls) = .ok ls := by
  rw [segments_eq_ok_iff]
  by_cases hsep : sep ∈ joinLabels ls
  · exact .inl ⟨hsep, (splitAtSep_joinLabels h free).symm⟩
  · obtain ⟨l, rfl⟩ := eq_singleton_of_sep_notMem h hsep
    exact .inr ⟨hsep, by simp [joinLabels]⟩

/-- Phase 1 finds the labels of text without separators (R71). -/
theorem segments_flatMap_labelText {ls : List Label} (free : ∀ l ∈ ls, sep ∉ labelText l) :
    segments (ls.flatMap labelText) = .ok ls :=
  (segments_eq_ok_iff ..).mpr (.inr ⟨by simpa using free, rfl⟩)

/-- Canonical text without its separators is the labels put together (R75). -/
theorem joinLabels_filter_ne_sep {ls : List Label} (free : ∀ l ∈ ls, sep ∉ labelText l) :
    (joinLabels ls).filter (· ≠ sep) = ls.flatMap labelText := by
  induction ls with
  | nil => rfl
  | cons l ls ih =>
    obtain ⟨freeHead, freeTail⟩ := List.forall_mem_cons.mp free
    have head : (labelText l).filter (· ≠ sep) = labelText l :=
      List.filter_eq_self.mpr fun c hc => by simpa using ne_of_mem_of_not_mem hc freeHead
    by_cases hls : ls = []
    · simpa [hls, joinLabels] using head
    · rw [joinLabels_cons l ls hls, List.filter_append, head, List.filter_cons_of_neg (by simp), ih freeTail,
        List.flatMap_cons]

end Sys2Proof.Composer
end

section
/-! PROOFS. The decoding side: DEC label by label, parsing, and the laws of the composer (42_identifier_composer.md
R69 to R75). -/

namespace Sys2Proof.Composer

open Sys2Proof.Machine

/-- A label that decodes is presented, and the labels after it are decoded next (R72). -/
theorem decodeAll_cons_of_ok {l : Label} {v : Value} (h : decodeLabel 5#3 l = .ok v) (ls : List Label) :
    decodeAll (l :: ls) = ⟨Sys2Proof.encode (.dec 5#3 l) :: (decodeAll ls).requests,
      mapResult (v :: ·) (decodeAll ls).result⟩ := by
  simp [decodeAll, h]

/-- A label that fails is the last one presented, and its error is the result (R72). -/
theorem decodeAll_cons_of_error {l : Label} {e : DecError} (h : decodeLabel 5#3 l = .error e) (ls : List Label) :
    decodeAll (l :: ls) = ⟨[Sys2Proof.encode (.dec 5#3 l)], .err e⟩ := by
  simp [decodeAll, h]

/-- The labels of values decode to them, and what follows is decoded next (R58, R72). -/
theorem decodeAll_map_encodeU16_append (vs : List Value) (ls : List Label) :
    decodeAll (vs.map encodeU16 ++ ls) =
      ⟨((vs.map encodeU16).map fun m => Sys2Proof.encode (.dec 5#3 m)) ++ (decodeAll ls).requests,
        mapResult (vs ++ ·) (decodeAll ls).result⟩ := by
  induction vs with
  | nil => cases h : (decodeAll ls).result <;> simp [mapResult, ← h]
  | cons v vs ih =>
    rw [List.map_cons, List.cons_append, decodeAll_cons_of_ok (decodeLabel_encodeU16 v), ih]
    cases (decodeAll ls).result <;> rfl

/-- The labels of values are all presented and decode to them (R58, R73). -/
theorem decodeAll_map_encodeU16 (vs : List Value) :
    decodeAll (vs.map encodeU16) = ⟨(vs.map encodeU16).map fun m => Sys2Proof.encode (.dec 5#3 m), .ok vs⟩ := by
  simpa [decodeAll, mapResult] using decodeAll_map_encodeU16_append vs []

/-- Labels decode exactly where they are those of values (R59, R73). -/
theorem decodeAll_result_eq_ok_iff (ls : List Label) (vs : List Value) :
    (decodeAll ls).result = .ok vs ↔ vs.map encodeU16 = ls := by
  constructor
  · intro h
    obtain ⟨-, outcomes⟩ := decodeAll_ok h
    rw [← List.forall₂_eq_eq_eq, List.forall₂_map_left_iff, List.forall₂_map_right_iff] at outcomes
    rw [← List.forall₂_eq_eq_eq, List.forall₂_map_left_iff]
    simpa only [decLabel_eq_decodeLabel, decodeLabel_eq_ok_iff] using outcomes.flip
  · rintro rfl
    rw [decodeAll_map_encodeU16]

theorem parse_of_segments_error {t : Text} {e : DecError} (ht : t ≠ []) (h : segments t = .error e) :
    parse t = ⟨[], .err e⟩ := by
  rw [parse, if_neg (by simpa using ht), h]

theorem parse_of_segments_ok {t : Text} {ls : List Label} (ht : t ≠ []) (h : segments t = .ok ls) :
    parse t = ⟨(decodeAll ls).requests, mapResult (fun _ => ⟨ls⟩) (decodeAll ls).result⟩ := by
  rw [parse, if_neg (by simpa using ht), h]

/-- What `parse` accepts: non-empty text whose segments are well-formed labels (R72). -/
theorem parse_result_eq_ok_iff (t : Text) (x : Identifier) :
    (parse t).result = .ok x ↔ t ≠ [] ∧ segments t = .ok x.labels ∧ ∀ l ∈ x.labels, l.wellFormed = true := by
  by_cases ht : t = []
  · simp [ht, parse]
  · cases h : segments t with
    | error e => simp [parse_of_segments_error ht h]
    | ok ls =>
      simp only [parse_of_segments_ok ht h, mapResult_eq_ok, decodeAll_result_eq_ok_iff, exists_and_right,
        ← all_wellFormed_iff_map_encodeU16, ne_eq, ht, not_false_eq_true, true_and, Except.ok.injEq]
      constructor
      · rintro ⟨hwf, rfl⟩
        exact ⟨rfl, hwf⟩
      · rintro ⟨rfl, hwf⟩
        exact ⟨hwf, rfl⟩

/-- Text whose segments are the labels of an identifier parses to it. -/
theorem parse_of_wellFormed {t : Text} {x : Identifier} (hx : x.wellFormed = true) (h : segments t = .ok x.labels) :
    (parse t).result = .ok x := by
  obtain ⟨hne, hwf⟩ := (wellFormed_iff x).mp hx
  exact (parse_result_eq_ok_iff t x).mpr ⟨(eq_nil_iff_of_segments_ok h).not.mp hne, h, hwf⟩

/-- The text of an identifier parses to it, with its separators and without (R74, R75). -/
theorem parse_text_of_wellFormed {x : Identifier} (hx : x.wellFormed = true) :
    (parse (joinLabels x.labels)).result = .ok x ∧
      (parse ((joinLabels x.labels).filter (· ≠ sep))).result = .ok x := by
  obtain ⟨hne, hwf⟩ := (wellFormed_iff x).mp hx
  have free : ∀ l ∈ x.labels, sep ∉ labelText l := fun l hl => sep_notMem_labelText (hwf l hl)
  refine ⟨parse_of_wellFormed hx (segments_joinLabels hne free), parse_of_wellFormed hx ?_⟩
  rw [joinLabels_filter_ne_sep free, segments_flatMap_labelText free]

/-- Settles O45: the segments by count, join and content, and phase 1 by the lengths of the segments. -/
theorem separatorModeChecksEverySegment : Obligations.SeparatorModeChecksEverySegment := by
  intro t hsep
  refine ⟨splitAtSep_length t, ?_, sep_notMem_of_mem_splitAtSep t, ?_, fun hlen => ?_⟩
  · rw [splitAtSep_eq_splitOn]
    exact List.intercalate_splitOn sep
  · rintro ⟨seg, hseg, hlen⟩
    refine parse_of_segments_error (List.ne_nil_of_mem hsep) ?_
    rw [segments_of_sep_mem hsep, labelsOf_of_length_ne hseg hlen]
  · rw [segments_of_sep_mem hsep]
    exact labelsOf_of_length_eq hlen

/-- Settles O46: the length decides, and the groups of five are labels. -/
theorem chunkModeCutsGroupsOfFive : Obligations.ChunkModeCutsGroupsOfFive := by
  intro t ht hsep
  refine ⟨fun hlen => parse_of_segments_error ht (segments_of_length_mod_ne hsep hlen), fun hlen => ?_⟩
  obtain ⟨ls, hok, hls⟩ := labelsOf_of_length_eq (length_of_mem_chunks t hlen)
  refine ⟨ls, (segments_of_sep_notMem hsep hlen).trans hok, ?_⟩
  rw [List.flatMap_def, hls, chunks_flatten]

/-- Settles O47: a failure of phase 1 ends the parse; else the well-formed labels before the first failure are those of
values. -/
theorem parseReportsTheFirstFailure : Obligations.ParseReportsTheFirstFailure := by
  refine ⟨fun t e ht h => ?_, fun t before l after e ht h hwf hl => ?_, fun t ls ht h hwf => ?_⟩
  · obtain rfl := segments_error h
    exact ⟨rfl, parse_of_segments_error ht h⟩
  · obtain ⟨vs, rfl⟩ := (all_wellFormed_iff_map_encodeU16 before).mp hwf
    rw [parse_of_segments_ok ht h, decodeAll_map_encodeU16_append, decodeAll_cons_of_error hl, List.map_append]
    rfl
  · obtain ⟨vs, rfl⟩ := (all_wellFormed_iff_map_encodeU16 ls).mp hwf
    rw [parse_of_segments_ok ht h, decodeAll_map_encodeU16]
    rfl

/-- The first error among all outcomes is the result of decoding up to it, whose requests come first among all (R95). -/
theorem firstError_map_decLabel (ls : List Label) :
    firstError (ls.map decLabel) = (decodeAll ls).result ∧ (decodeAll ls).requests <+: ls.map decRequest := by
  induction ls with
  | nil => exact ⟨rfl, List.prefix_rfl⟩
  | cons l ls ih =>
    obtain ⟨result, requests⟩ := ih
    cases hl : decodeLabel 5#3 l with
    | ok v =>
      rw [decodeAll_cons_of_ok hl, List.map_cons, List.map_cons, decLabel_eq_decodeLabel, hl, firstError, result]
      exact ⟨rfl, (List.prefix_cons_inj _).mpr requests⟩
    | error e =>
      rw [decodeAll_cons_of_error hl, List.map_cons, List.map_cons, decLabel_eq_decodeLabel, hl, firstError]
      exact ⟨rfl, List.cons_prefix_cons.mpr ⟨rfl, List.nil_prefix⟩⟩

theorem parseAhead_of_segments_error {t : Text} {e : DecError} (ht : t ≠ []) (h : segments t = .error e) :
    parseAhead t = ⟨[], .err e⟩ := by
  rw [parseAhead, if_neg (by simpa using ht), h]

theorem parseAhead_of_segments_ok {t : Text} {ls : List Label} (ht : t ≠ []) (h : segments t = .ok ls) :
    parseAhead t = ⟨ls.map decRequest, mapResult (fun _ => ⟨ls⟩) (firstError (ls.map decLabel))⟩ := by
  rw [parseAhead, if_neg (by simpa using ht), h]

/-- Settles O48: the two hosts differ only where phase 1 succeeds, and there by `firstError_map_decLabel`. -/
theorem parsingAheadHasTheSameResult : Obligations.ParsingAheadHasTheSameResult := by
  intro t
  by_cases ht : t = []
  · subst ht
    exact ⟨rfl, List.prefix_rfl⟩
  · cases h : segments t with
    | error e =>
      rw [parse_of_segments_error ht h, parseAhead_of_segments_error ht h]
      exact ⟨rfl, List.prefix_rfl⟩
    | ok ls =>
      obtain ⟨result, requests⟩ := firstError_map_decLabel ls
      rw [parse_of_segments_ok ht h, parseAhead_of_segments_ok ht h, result]
      exact ⟨rfl, requests⟩

theorem toValues_of_ne_nil {x : Identifier} (h : x.labels ≠ []) : toValues x = decodeAll x.labels := by
  rw [toValues, if_neg (by simpa using h)]

/-- Settles O49: the labels of an identifier are those of values, to which they decode. -/
theorem toValuesDecodesEachLabel : Obligations.ToValuesDecodesEachLabel := by
  intro x hx
  obtain ⟨hne, hwf⟩ := (wellFormed_iff x).mp hx
  obtain ⟨vs, hvs⟩ := (all_wellFormed_iff_map_encodeU16 x.labels).mp hwf
  refine ⟨vs, ?_, hvs⟩
  rw [toValues_of_ne_nil hne, ← hvs, decodeAll_map_encodeU16]

/-- The labels of a non-empty sequence of values make an identifier (R61). -/
theorem wellFormed_map_encodeU16 {vs : List Value} (h : vs ≠ []) :
    (Identifier.mk (vs.map encodeU16)).wellFormed = true :=
  (wellFormed_iff _).mpr ⟨by simpa using h, (all_wellFormed_iff_map_encodeU16 _).mpr ⟨vs, rfl⟩⟩

/-- Settles O51: `parse` succeeds on well-formed labels only, and `encode` and `append` add labels of values. -/
theorem composerMakesWellFormedIdentifiers : Obligations.ComposerMakesWellFormedIdentifiers := by
  refine ⟨fun t x h => ?_, fun vs x h => ?_, fun x v y hx h => ?_⟩
  · obtain ⟨ht, hseg, hwf⟩ := (parse_result_eq_ok_iff t x).mp h
    exact (wellFormed_iff x).mpr ⟨(eq_nil_iff_of_segments_ok hseg).not.mpr ht, hwf⟩
  · have hne : vs ≠ [] := by
      rintro rfl
      cases h
    rw [encode_of_ne_nil hne] at h
    cases h
    exact wellFormed_map_encodeU16 hne
  · obtain ⟨hne, hwf⟩ := (wellFormed_iff x).mp hx
    rw [append_of_ne_nil hne] at h
    cases h
    have new : (encodeU16 v).wellFormed = true := (wellFormed_iff_encodeU16 _).mpr ⟨v, rfl⟩
    refine (wellFormed_iff _).mpr ⟨by simp, fun l hl => ?_⟩
    rcases List.mem_append.mp hl with hl | hl
    · exact hwf l hl
    · rwa [List.mem_singleton.mp hl]

/-- Canonical text that parses is the text of what it parses to, also where it was joined from other labels (R74). -/
theorem joinLabels_of_segments_joinLabels {ks ls : List Label} (h : ks ≠ [])
    (hseg : segments (joinLabels ks) = .ok ls) : joinLabels ls = joinLabels ks := by
  rcases (segments_eq_ok_iff ..).mp hseg with ⟨-, hsplit⟩ | ⟨hsep, hflat⟩
  · rw [joinLabels_eq_intercalate, hsplit, splitAtSep_eq_splitOn, List.intercalate_splitOn]
  · obtain ⟨k, rfl⟩ := eq_singleton_of_sep_notMem h hsep
    have one : ls.length = 1 := by simpa [joinLabels] using congrArg List.length hflat
    obtain ⟨l, rfl⟩ := List.length_eq_one_iff.mp one
    simpa [joinLabels] using hflat

/-- Settles O52: the labels of values make an identifier, whose text and labels are read back. -/
theorem sequenceRoundTrip : Obligations.SequenceRoundTrip := by
  refine ⟨fun vs hne => ?_, fun y t x hy hx => ?_⟩
  · have labels : vs.map encodeU16 ≠ [] := by simpa using hne
    refine ⟨⟨vs.map encodeU16⟩, joinLabels (vs.map encodeU16), ?_, toText_of_ne_nil labels,
      (parse_text_of_wellFormed (wellFormed_map_encodeU16 hne)).1, ?_⟩
    · rw [encode_of_ne_nil hne]
    · rw [toValues_of_ne_nil labels, decodeAll_map_encodeU16]
  · obtain ⟨hyne, rfl⟩ := (toText_eq_ok_iff y t).mp hy
    obtain ⟨ht, hseg, -⟩ := (parse_result_eq_ok_iff _ x).mp hx
    exact (toText_eq_ok_iff x _).mpr
      ⟨(eq_nil_iff_of_segments_ok hseg).not.mpr ht, joinLabels_of_segments_joinLabels hyne hseg⟩

/-- Settles O53: the text of an identifier parses to it, with its separators and without. -/
theorem separatorsAreOptionalOnInput : Obligations.SeparatorsAreOptionalOnInput := by
  intro x hx
  obtain ⟨hne, -⟩ := (wellFormed_iff x).mp hx
  exact ⟨joinLabels x.labels, toText_of_ne_nil hne, parse_text_of_wellFormed hx⟩

end Sys2Proof.Composer
end

section
/-! PROOFS. DEC reports the leftmost offending character (41_label_codec.md R56, 60_exceptions.md R79). -/

namespace Sys2Proof.Machine

/-- A sequence of two operations ends in the error of the first. -/
theorem except_bind_error {ε α β : Type} {x : Except ε α} {e : ε} (h : x = .error e) (f : α → Except ε β) :
    (x >>= f) = .error e := by
  rw [h]
  rfl

/-- A consonant position that holds a consonant leaves the error to the positions after it (R56). -/
theorem accConsonant_bind_error_of_isConsonant {acc : Value} {c : CharCode} {f : Value → Except DecError Value}
    {e : DecError} (h : isConsonant c = true) (hf : ∀ a, f a = .error e) : (accConsonant acc c >>= f) = .error e := by
  obtain ⟨i, hi⟩ := (isConsonant_iff_lookup c).mp h
  rw [(accConsonant_eq_ok_iff ..).mpr ⟨i, hi, rfl⟩]
  exact hf _

/-- The same at a vowel position that holds a vowel. -/
theorem accVowel_bind_error_of_isVowel {acc : Value} {c : CharCode} {f : Value → Except DecError Value}
    {e : DecError} (h : isVowel c = true) (hf : ∀ a, f a = .error e) : (accVowel acc c >>= f) = .error e := by
  obtain ⟨i, hi⟩ := (isVowel_iff_lookup c).mp h
  rw [(accVowel_eq_ok_iff ..).mpr ⟨i, hi, rfl⟩]
  exact hf _

/-- A consonant position that holds any other character ends in the error that carries it (R79). -/
theorem accConsonant_of_not_isConsonant {c : CharCode} (h : isConsonant c = false) (acc : Value) :
    accConsonant acc c = .error (.invalidConsonant c) := by
  have outside : ∀ i, cons i ≠ c := fun i hi => Bool.eq_false_iff.mp h ((isConsonant_iff c).mpr ⟨i, hi⟩)
  rw [accConsonant, consonantValue_of_not_cons outside]

/-- The same at a vowel position. -/
theorem accVowel_of_not_isVowel {c : CharCode} (h : isVowel c = false) (acc : Value) :
    accVowel acc c = .error (.invalidVowel c) := by
  have outside : ∀ i, vow i ≠ c := fun i hi => Bool.eq_false_iff.mp h ((isVowel_iff c).mpr ⟨i, hi⟩)
  rw [accVowel, vowelValue_of_not_vow outside]

/-- Settles O20: the positions left of the offending one pass, its error ends DEC, and the error is answered by the
word of its kind (`responseWordOfEachOutcome`). -/
theorem decReportsTheLeftmostOffendingCharacter : Obligations.DecReportsTheLeftmostOffendingCharacter := by
  obtain ⟨-, -, -, invalidConsonant, invalidVowel⟩ := responseWordOfEachOutcome
  refine fun ch s => ⟨fun h0 => invalidConsonant _ _ _ _ ?_, fun h0 h1 => invalidVowel _ _ _ _ ?_,
    fun h0 h1 h2 => invalidConsonant _ _ _ _ ?_, fun h0 h1 h2 h3 => invalidVowel _ _ _ _ ?_,
    fun h0 h1 h2 h3 h4 => invalidConsonant _ _ _ _ ?_⟩
  all_goals rw [decodeLabel_five]
  · exact except_bind_error (accConsonant_of_not_isConsonant h0 _) _
  all_goals refine accConsonant_bind_error_of_isConsonant h0 fun _ => ?_
  · exact except_bind_error (accVowel_of_not_isVowel h1 _) _
  all_goals refine accVowel_bind_error_of_isVowel h1 fun _ => ?_
  · exact except_bind_error (accConsonant_of_not_isConsonant h2 _) _
  all_goals refine accConsonant_bind_error_of_isConsonant h2 fun _ => ?_
  · exact except_bind_error (accVowel_of_not_isVowel h3 _) _
  · exact accVowel_bind_error_of_isVowel h3 fun _ => accConsonant_of_not_isConsonant h4 _

end Sys2Proof.Machine
end

section
/-! PROOFS. A cycle of reset discards what is in flight (70_reset_and_hazards.md R92, R93). -/

namespace Sys2Proof.Machine

/-- After a cycle of reset no transaction is in flight. -/
theorem resetCycle_pipe_empty (s : State) : ∀ e ∈ (resetCycle s).pipe, e = none :=
  fun _ => List.eq_of_mem_replicate

/-- A cycle of reset keeps LATENCY (R35). -/
@[simp] theorem resetCycle_latency (s : State) : (resetCycle s).latency = s.latency := by
  simp [State.latency]

/-- Settles O29: the step is a cycle of reset, which keeps the ports to come. -/
theorem resetDiscardsEverythingInFlight : Obligations.ResetDiscardsEverythingInFlight := by
  intro s p rest hin hrst
  have next : nextPorts s = p := by simp [nextPorts, hin]
  have later : (takePorts s).inputs = rest := by simp [hin]
  refine ⟨resetCycle (takePorts s), step_of_reset (next ▸ hrst), ?_, resetCycle_latency (takePorts s),
    resetCycle_pipe_empty (takePorts s), rfl, rfl⟩
  rw [← later]
  rfl

end Sys2Proof.Machine
end
